-- ==== Sys2Proof/Word.lean ====
section
/-! DEFINITION. The words that cross the engine's boundary: bytes (00_scope.md R12) and 20-bit command words
(30_encoding.md R84). Bit 0 is the least significant bit (R12). -/

namespace Sys2Proof

/-- A byte: 8 bits, an unsigned integer 0..255 (00_scope.md R12). -/
abbrev Byte := BitVec 8

/-- The host command word `cw` (30_encoding.md R84). -/
abbrev CmdWord := BitVec 20

end Sys2Proof
end

