-- ==== Sys2Proof/Config.lean ====
section
/-! DEFINITION. What an implementation fixes: the parameter record `P` (00_scope.md R5), the reference record `P_REF`
(R7), and the one free value of the model. -/

namespace Sys2Proof

/-- The parameter record `P` of 00_scope.md R5: every numeric constant of the wire protocol, withheld by the source and
OPEN (92_eei_decisions.md D2). The fields carry the spec's own names. -/
structure Params where
  /-- start-of-message marker -/
  SOM : Byte
  /-- end-of-header marker -/
  EOH : Byte
  /-- end-of-message marker -/
  EOM : Byte
  /-- range separator -/
  SEP : Byte
  /-- the master address constant -/
  MASTER : Byte
  /-- the wildcard destination -/
  ALL : Byte
  /-- capacity of the body buffer in bytes -/
  C : Nat
  /-- highest normal node address; no operation reads it (92_eei_decisions.md D27) -/
  N : Nat
  /-- width in bits of a timestamp -/
  TSW : Nat
  deriving DecidableEq, Repr

/-- `P_REF` (00_scope.md R7): the spec's own choice, used for its examples and for the `match` column of the wire rows of
opcode_table.json. DESIGN CHOICE (log 1): it is the record of `State.reset`; unsafe for a claim about the reset
machine's concrete bytes, which is why statements range over every record. -/
def Params.ref : Params where
  SOM := 0x3C
  EOH := 0x3A
  EOM := 0x3E
  SEP := 0x2D
  MASTER := 0xFE
  ALL := 0xFF
  C := 16
  N := 0x2C
  TSW := 32

/-- FREE VALUE (log 9): what `GET_BODY idx` reads above the terminator, `idx > bodyLen` (45_host_ops.md R224,
93_implementation_defined.md U5: any value, no proof may depend on it). The first argument is `State.bufferWrites`,
which every write of a buffer advances, so that the value may change when the buffers do and a repeated query returns
the same value until then (20_memory.md R57); the second is the index. It has no body here: nothing can be proved of a
value of it. -/
opaque Config.freeByte : Nat → Nat → Byte

end Sys2Proof
end

