-- ==== Sys2Proof/Syntax.lean ====
section
/-! DEFINITION. The operations of the engine, one constructor per row of spec/opcode_table.json, and the two encoded forms
in which an operation reaches it: a host command word and a received wire byte (30_encoding.md). -/

namespace Sys2Proof

/-- The operations. An operand field that 30_encoding.md R85 marks "ignored" is no argument (log 29). -/
inductive Instr where
  /-- `RESET` (40_framing.md R120) -/
  | reset
  /-- `START t` (45_host_ops.md R211) -/
  | start (t : Byte)
  /-- `FEED x` (40_framing.md R102) -/
  | feed (x : Byte)
  /-- `SET_ADDR addr` (45_host_ops.md R212) -/
  | setAddr (addr : Byte)
  /-- `SET_DEST lo, hi` (45_host_ops.md R213) -/
  | setDest (lo hi : Byte)
  /-- `APPEND x` (45_host_ops.md R215) -/
  | append (x : Byte)
  /-- `SEND` (44_transmit.md R180) -/
  | send
  /-- `CLEAR_NEW` (45_host_ops.md R216) -/
  | clearNew
  /-- `GET_STATE` (45_host_ops.md R218) -/
  | getState
  /-- `GET_TYPE` (45_host_ops.md R219) -/
  | getType
  /-- `GET_SRC` (45_host_ops.md R220) -/
  | getSrc
  /-- `GET_DEST_LO` (45_host_ops.md R221) -/
  | getDestLo
  /-- `GET_DEST_HI` (45_host_ops.md R222) -/
  | getDestHi
  /-- `GET_BODYLEN` (45_host_ops.md R223) -/
  | getBodylen
  /-- `GET_BODY idx` (45_host_ops.md R224) -/
  | getBody (idx : Byte)
  /-- `GET_ISNEW` (45_host_ops.md R225) -/
  | getIsnew
  /-- `TO_ME` (42_address.md R146) -/
  | toMe
  /-- `TO_MASTER` (42_address.md R149) -/
  | toMaster
  /-- `GET_SENTAT` (45_host_ops.md R226) -/
  | getSentat
  /-- `GET_DIR` (45_host_ops.md R227) -/
  | getDir
  /-- `GET_MYADDR` (45_host_ops.md R228) -/
  | getMyaddr
  /-- `BYTE_SOM`: a received byte equal to `P.SOM` (40_framing.md R103) -/
  | byteSom
  /-- `BYTE_EOM`: a received byte equal to `P.EOM` (40_framing.md R104, R105, R106, R113) -/
  | byteEom
  /-- `BYTE_EOH`: a received byte equal to `P.EOH` (40_framing.md R109, 30_encoding.md R76) -/
  | byteEoh
  /-- `BYTE_SEP`: a received byte equal to `P.SEP` (40_framing.md R108, 30_encoding.md R77) -/
  | byteSep
  /-- `BYTE_DATA x`: any other received byte (40_framing.md R104, R107, R108, R110, R111) -/
  | byteData (x : Byte)
  deriving DecidableEq, Repr

/-- What the environment hands over: a host command word (30_encoding.md section 4) or one byte received from the bus
(sections 1 and 2). -/
inductive Encoded where
  | command (cw : CmdWord)
  | wire (b : Byte)
  deriving DecidableEq, Repr

end Sys2Proof
end

