-- ==== Sys2Proof/Machine/State.lean ====
section
/-! DEFINITION. The state of the engine (10_state.md R20 to R40), what crosses its boundary, the reasons a step can stop,
and the state after power-on reset (R38). -/

namespace Sys2Proof.Machine

/-- The six values of the `state` register (10_state.md R21). -/
inductive EngineState where
  /-- no message in progress -/
  | idle
  /-- collecting header bytes -/
  | header
  /-- collecting body bytes, checksum trailing -/
  | active
  /-- complete, checksum valid -/
  | ready
  /-- body exceeded capacity -/
  | overflow
  /-- malformed header or checksum mismatch -/
  | aborted
  deriving DecidableEq, Repr

/-- The bus direction line (10_state.md R30): RX listens, TX drives the bus. -/
inductive Dir where
  | rx
  | tx
  deriving DecidableEq, Repr

/-- The output events of 00_scope.md R10. -/
inductive Event where
  /-- `Dir(TX)`, `Dir(RX)`: the direction line is asserted, deasserted -/
  | dir (d : Dir)
  /-- `Tx(b)`: one byte written to the transmit transport -/
  | tx (b : Byte)
  /-- `Flush`: the transport is asked to flush -/
  | flush
  /-- `CrcMismatch(rx, calc)` (the spec's `calc` is `computed` here): the received and the recomputed checksum differ -/
  | crcMismatch (rx computed : Byte)
  deriving DecidableEq, Repr

/-- What one operation gives back: its events in order and its result (00_scope.md R8, 30_encoding.md R87). -/
structure Output where
  events : List Event
  result : Nat
  deriving DecidableEq, Repr

/-- One operation issued by the environment, with the values its `Env` presents to it (00_scope.md R8): the timestamp
`now` (44_transmit.md R192) and whether the transport completes a flush (R190, R191). -/
structure Input where
  word : Encoded
  now : Nat
  flushDone : Bool
  deriving DecidableEq, Repr

/-- Why the machine stops with a fault. The hardware itself has no exception of any kind (60_exceptions.md R240). -/
inductive Fault where
  /-- Raised by `SEND` alone, when the environment does not complete its flush: the operation never returns and the line
  stays at TX (44_transmit.md R191, 93_implementation_defined.md U10 "stuck"). `emitted` is what it emitted before it
  hung. Safe: no claim about a next state is made of it (log 12). -/
  | flushNeverCompleted (emitted : List Event)
  deriving DecidableEq, Repr

/-- Why the machine has no meaning for what it was given. -/
inductive Refusal where
  /-- Raised by an arm of `exec` whose instruction has no meaning yet; no arm does. Safe. -/
  | notModelled (mnemonic : String)
  /-- Raised by the fetch when the parameter record breaks a required constraint of 00_scope.md R6. Safe (log 2). -/
  | illegalParams
  /-- Raised by the fetch on a command word with operation code 0x9 to 0xF (30_encoding.md R88). Safe (log 13). -/
  | reservedOp (op : BitVec 4)
  /-- Raised by the fetch on a query with selector 0x0D to 0xFF (30_encoding.md R88). Safe (log 13). -/
  | reservedSelector (sel : Byte)
  deriving DecidableEq, Repr

/-- The engine's state. The fields from `state` to `dir` are the record of 10_state.md R20; `params` is the record `P` of
00_scope.md R5, which never changes (70_reset_and_hazards.md R275); the rest is the model's own. -/
structure State where
  /-- the parameter record `P`; no step writes it (log 1) -/
  params : Params
  /-- R21 -/
  state : EngineState
  /-- `type` (R23), 0 = unset -/
  msgType : Byte
  /-- hidden: the type byte has been consumed (R31) -/
  typeSeen : Bool
  /-- R24 -/
  src : Byte
  /-- R25 -/
  destLow : Byte
  /-- R25 -/
  destHigh : Byte
  /-- the logical bytes `body[0 .. bodyLen-1]` (R26, R40); the terminator is implicit (log 8) -/
  body : List Byte
  /-- hidden: the stored header bytes (R32, R40) -/
  hdr : List Byte
  /-- hidden: header bytes fed, saturating at 6 (R32) -/
  hdrLen : Nat
  /-- R27, 0 = unassigned -/
  myAddress : Byte
  /-- R28, `P.TSW` bits (log 14) -/
  sentAt : Nat
  /-- R29 -/
  isNew : Bool
  /-- R30 -/
  dir : Dir
  /-- MODEL'S OWN: operations issued and not yet executed, oldest first (log 4) -/
  inputs : List Input
  /-- MODEL'S OWN: `now` as presented to the operation being executed (log 10) -/
  now : Nat
  /-- MODEL'S OWN: the transport completes the flush of the operation being executed (log 10) -/
  flushDone : Bool
  /-- MODEL'S OWN: the output of every operation executed, oldest first (log 7) -/
  outputs : List Output
  /-- MODEL'S OWN: how often a buffer has been written; the index of `Config.freeByte` (log 9) -/
  bufferWrites : Nat
  deriving DecidableEq, Repr

/-- `bodyLen`, the logical length of the body (10_state.md R26). -/
abbrev State.bodyLen (s : State) : Nat := s.body.length

/-- The state after power-on reset of an engine built with `P`: the table of 10_state.md R38 (70_reset_and_hazards.md
R271). The model's own fields start empty, at 0 and with flushes completing (logs 4, 7, 9, 10). -/
def State.powerOn (P : Params) : State where
  params := P
  state := .idle
  msgType := 0
  typeSeen := false
  src := 0
  destLow := 0
  destHigh := 0
  body := []
  hdr := []
  hdrLen := 0
  myAddress := 0
  sentAt := 0
  isNew := true
  dir := .rx
  inputs := []
  now := 0
  flushDone := true
  outputs := []
  bufferWrites := 0

/-- The machine right after reset, built with `P_REF` (DESIGN CHOICE, log 1). -/
def State.reset : State := State.powerOn Params.ref

end Sys2Proof.Machine
end

