-- ==== Sys2Proof/Machine/Flags.lean ====
section
/-! DEFINITION. The one stored flag `isNew` (10_state.md R29) and the two combinational predicates of the address-range
matcher (R34, 42_address.md R145 to R149). No operation sets a condition code, carry or overflow flag (R34). -/

namespace Sys2Proof.Machine

/-- `isNew <- 1`: by every message reset and by the transition to READY (10_state.md R29). -/
def setNew (s : State) : State := { s with isNew := true }

/-- `isNew <- 0`: by `CLEAR_NEW` alone (10_state.md R29). -/
def clearNew (s : State) : State := { s with isNew := false }

/-- `addressedToMe` (42_address.md R146): wildcard on the low bound first, then unassigned, then the inclusive unsigned
range (R147, R148). -/
def addressedToMe (s : State) : Bool :=
  if s.destLow = s.params.ALL then true
  else if s.myAddress = 0 then false
  else if s.destLow ≤ s.myAddress ∧ s.myAddress ≤ s.destHigh then true
  else false

/-- `addressedToMaster` (42_address.md R149): the low bound alone. -/
def addressedToMaster (s : State) : Bool := s.destLow == s.params.MASTER

end Sys2Proof.Machine
end

