-- ==== Sys2Proof/Machine/Ops.lean ====
section
/-! DEFINITION. The named operations over the two buffers and the record: the access primitives of 20_memory.md, the
message reset (40_framing.md R100), entering an error state (60_exceptions.md R246), recording an operation's output
(00_scope.md R8), and the constraints on the parameter record (R6).

The hardware has no exception to take and no return from one (60_exceptions.md R240): errors are values of `state`.
`enterError` is the one shared way into an error state; `msgReset` is the one way out (R248). -/

namespace Sys2Proof.Machine

/-- Every constraint of 00_scope.md R6 that the table marks required; those it marks hazard are not enforced. -/
def paramsLegal (P : Params) : Bool :=
  decide (P.SOM ≠ P.EOH ∧ P.SOM ≠ P.EOM ∧ P.EOH ≠ P.EOM ∧
    P.SEP ≠ P.SOM ∧ P.SEP ≠ P.EOH ∧ P.SEP ≠ P.EOM ∧
    P.MASTER ≠ P.ALL ∧
    ¬ (1 ≤ P.MASTER.toNat ∧ P.MASTER.toNat ≤ P.N) ∧
    ¬ (1 ≤ P.ALL.toNat ∧ P.ALL.toNat ≤ P.N) ∧
    2 ≤ P.C ∧ 1 ≤ P.TSW)

/-- READY, OVERFLOW and ABORTED are the terminal states (10_state.md R21). -/
def isTerminal (e : EngineState) : Bool :=
  match e with
  | .ready | .overflow | .aborted => true
  | .idle | .header | .active => false

/-- Both buffers are in the one form the spec gives them: fewer than `P.C` logical body bytes, so that the terminator fits
(10_state.md R36 I1), and `min(hdrLen, 5)` stored header bytes with a count of at most 6 (R32, R40). -/
def Memory.wf (s : State) : Bool :=
  decide (s.bodyLen < s.params.C ∧ s.hdr.length = min s.hdrLen 5 ∧ s.hdrLen ≤ 6)

/-- Append one operation's output: its events in order and its result (00_scope.md R8, R10). -/
def respond (evs : List Event) (res : Nat) (s : State) : State :=
  { s with outputs := s.outputs ++ [⟨evs, res⟩] }

/-- A buffer has been written: the bytes above the terminator may read as something else from here on (10_state.md R40,
log 9). -/
def noteWrite (s : State) : State := { s with bufferWrites := s.bufferWrites + 1 }

/-- `body_clear` (20_memory.md R51). -/
def bodyClear (s : State) : State := noteWrite { s with body := [] }

/-- Entry to ABORTED or OVERFLOW: nothing is saved and nothing is cleared (60_exceptions.md R246). -/
def enterError (e : EngineState) (s : State) : State := { s with state := e }

/-- `body_append` (20_memory.md R53): the single place where the capacity is checked. -/
def bodyAppend (b : Byte) (s : State) : State :=
  if s.bodyLen < s.params.C - 1 then noteWrite { s with body := s.body ++ [b] }
  else enterError .overflow s

/-- `body_pop` (20_memory.md R54): the last buffered byte and the state without it, `none` when nothing is buffered. -/
def bodyPop (s : State) : Option (Byte × State) :=
  match s.body.getLast? with
  | none => none
  | some v => some (v, noteWrite { s with body := s.body.dropLast })

/-- `hdr_append` (20_memory.md R56): five bytes are stored, the count saturates at 6. -/
def hdrAppend (b : Byte) (s : State) : State :=
  if s.hdrLen < 5 then noteWrite { s with hdr := s.hdr ++ [b], hdrLen := s.hdrLen + 1 }
  else if s.hdrLen < 6 then { s with hdrLen := s.hdrLen + 1 }
  else s

/-- `msg_reset` (40_framing.md R100): `myAddress`, `sentAt` and `dir` are kept (10_state.md R39). -/
def msgReset (s : State) : State :=
  setNew (bodyClear { s with
    state := .idle, msgType := 0, typeSeen := false, src := 0, destLow := 0, destHigh := 0, hdr := [], hdrLen := 0 })

end Sys2Proof.Machine
end

