-- ==== Sys2Proof/Machine/Operands.lean ====
section
/-! DEFINITION. What an operation reads and returns: the numeric codes of results (30_encoding.md R87, R89, R90), the read
of one body byte (45_host_ops.md R224), and the fields a collected header gives (41_header.md R132 to R135). -/

namespace Sys2Proof.Machine

/-- The state codes (30_encoding.md R89). -/
def stateCode (e : EngineState) : Nat :=
  match e with
  | .idle => 0
  | .header => 1
  | .active => 2
  | .ready => 3
  | .overflow => 4
  | .aborted => 5

/-- The direction line as a number: RX = 0, TX = 1 (30_encoding.md R90). -/
def dirCode (d : Dir) : Nat :=
  match d with
  | .rx => 0
  | .tx => 1

/-- A bit or a predicate result: 1 for true, 0 for false (30_encoding.md R90). -/
def bitCode (b : Bool) : Nat := if b then 1 else 0

/-- The width of a result: `max(P.TSW, 8, bits for P.C + 8)` (30_encoding.md R87). -/
def resultWidth (P : Params) : Nat := max P.TSW (max 8 (Nat.log2 (P.C + 8) + 1))

/-- `body[i]` as the host reads it (45_host_ops.md R224): a logical byte, the terminator at `bodyLen`, and above it the
free value of 93_implementation_defined.md U5 (log 9). -/
def State.readBody (s : State) (i : Nat) : Byte :=
  if i < s.bodyLen then s.body.getD i 0
  else if i = s.bodyLen then 0
  else Config.freeByte s.bufferWrites i

/-- The destination and the source that the header bytes give, as `(lo, hi, src)` (41_header.md R130): the range form is
taken when the second byte is the separator (R132), and is malformed with nothing after it (R133); the source is the
next byte (surplus bytes are ignored, R134) or the master address (R135). -/
def headerFields (P : Params) (hdr : List Byte) : Option (Byte × Byte × Byte) :=
  match hdr with
  | [] => none
  | lo :: rest =>
    match rest with
    | [] => some (lo, lo, P.MASTER)
    | b :: rest =>
      if b = P.SEP then
        match rest with
        | [] => none
        | hi :: rest => some (lo, hi, rest.headD P.MASTER)
      else some (lo, lo, b)

end Sys2Proof.Machine
end

