-- ==== Sys2Proof/Machine/Header.lean ====
section
/-! DEFINITION. The header parser, a micro-operation of `FEED` (41_header.md). -/

namespace Sys2Proof.Machine

/-- `parse_header` (41_header.md R130). The length is judged first (R131); the fields are read from the stored bytes
(R132 to R135); a malformed header writes nothing but `state`; success writes the three fields together (R136), clears
the body and enters ACTIVE (R137). -/
def parseHeader (s : State) : State :=
  if s.hdrLen = 0 ∨ 5 < s.hdrLen then enterError .aborted s
  else
    match headerFields s.params s.hdr with
    | none => enterError .aborted s
    | some (lo, hi, sr) => { bodyClear { s with destLow := lo, destHigh := hi, src := sr } with state := .active }

end Sys2Proof.Machine
end

