-- ==== Sys2Proof/Machine/Framing.lean ====
section
/-! DEFINITION. The framing and parsing state machine (40_framing.md): `FEED`, its arms, `RESET`, and the five wire-byte
rows of opcode_table.json, each of which is `FEED` of the byte it stands for (00_scope.md R9, 40_framing.md R102). -/

namespace Sys2Proof.Machine

/-- `feed_som` (40_framing.md R103). -/
def feedSom (s : State) : State := { msgReset s with state := .header }

/-- `feed_eom_stray` (40_framing.md R105, R106). -/
def feedEomStray (s : State) : State := msgReset s

/-- `feed_type(x)` (40_framing.md R110). -/
def feedType (x : Byte) (s : State) : State := { s with msgType := x, typeSeen := true }

/-- `feed_eom_active` (40_framing.md R113): nothing buffered is ABORTED without an event (R117); otherwise the popped byte
is compared with the checksum of what remains: READY (R115), or ABORTED with the mismatch reported (R116). -/
def feedEomActive (s : State) : State × List Event :=
  match bodyPop s with
  | none => (enterError .aborted s, [])
  | some (rx, s) =>
    let computed := crc8Msg s
    if rx = computed then (setNew { s with state := .ready }, [])
    else (enterError .aborted s, [.crcMismatch rx computed])

/-- One received byte: the chain of 40_framing.md R102, in the priority of R101. -/
def feedByte (x : Byte) (s : State) : State × List Event :=
  if x = s.params.SOM then (feedSom s, [])
  else if isTerminal s.state then (s, [])
  else if x = s.params.EOM ∧ s.state = .active then feedEomActive s
  else if x = s.params.EOM then (feedEomStray s, [])
  else if s.state = .idle then (s, [])
  else if s.state = .header ∧ x = s.params.EOH then (parseHeader s, [])
  else if s.state = .header then (hdrAppend x s, [])
  else if s.typeSeen = false then (feedType x s, [])
  else (bodyAppend x s, [])

/-- The state after `FEED x`, its output recorded: the events of its arm and the state code after it (40_framing.md
R102). -/
def feedStep (x : Byte) (s : State) : State :=
  respond (feedByte x s).2 (stateCode (feedByte x s).1.state) (feedByte x s).1

/-- The state after the pseudo-operation `FEEDSEQ` (30_encoding.md R82): `FEED` of each byte in order, each with its own
output recorded; the empty sequence performs nothing. -/
def feedSeq (bs : List Byte) (s : State) : State :=
  match bs with
  | [] => s
  | b :: bs => feedSeq bs (feedStep b s)

/-- What `FEEDSEQ` itself gives back (30_encoding.md R82): the events of its `FEED`s one after the other, and the result of
the last of them, which is the current state code for the empty sequence. -/
def feedSeqOutput (bs : List Byte) (s : State) : Output :=
  match bs with
  | [] => ⟨[], stateCode s.state⟩
  | b :: bs =>
    let rest := feedSeqOutput bs (feedStep b s)
    ⟨(feedByte b s).2 ++ rest.events, rest.result⟩

/-- `RESET` (40_framing.md R120). -/
def execReset (s : State) : Host.Outcome State Fault Refusal :=
  .next (respond [] 0 (msgReset s))

/-- `FEED x` (40_framing.md R102). -/
def execFeed (x : Byte) (s : State) : Host.Outcome State Fault Refusal :=
  .next (feedStep x s)

/-- `BYTE_SOM`: the received byte is `P.SOM` (40_framing.md R103). -/
def execByteSom (s : State) : Host.Outcome State Fault Refusal :=
  .next (feedStep s.params.SOM s)

/-- `BYTE_EOM`: the received byte is `P.EOM` (40_framing.md R104, R105, R106, R113). -/
def execByteEom (s : State) : Host.Outcome State Fault Refusal :=
  .next (feedStep s.params.EOM s)

/-- `BYTE_EOH`: the received byte is `P.EOH` (40_framing.md R109; data in ACTIVE, 30_encoding.md R76). -/
def execByteEoh (s : State) : Host.Outcome State Fault Refusal :=
  .next (feedStep s.params.EOH s)

/-- `BYTE_SEP`: the received byte is `P.SEP` (40_framing.md R108; data in ACTIVE, 30_encoding.md R76). -/
def execByteSep (s : State) : Host.Outcome State Fault Refusal :=
  .next (feedStep s.params.SEP s)

/-- `BYTE_DATA x`: any other received byte (40_framing.md R104, R107, R108, R110, R111). A term whose byte an earlier row
matches is ill formed; it too is fed by its value (30_encoding.md R75, log 26). -/
def execByteData (x : Byte) (s : State) : Host.Outcome State Fault Refusal :=
  .next (feedStep x s)

end Sys2Proof.Machine
end

