-- ==== Sys2Proof/Machine/HostOps.lean ====
section
/-! DEFINITION. The host operations that write the record (45_host_ops.md): `START`, `SET_ADDR`, `SET_DEST`, `APPEND`,
`CLEAR_NEW`. -/

namespace Sys2Proof.Machine

/-- The state after `START t`, its output not yet recorded (45_host_ops.md R211). -/
def startMessage (t : Byte) (s : State) : State :=
  let s := { msgReset s with msgType := t }
  if t ≠ 0 then { s with typeSeen := true, state := .active } else s

/-- `START t` (45_host_ops.md R211). -/
def execStart (t : Byte) (s : State) : Host.Outcome State Fault Refusal :=
  .next (respond [] (stateCode (startMessage t s).state) (startMessage t s))

/-- `SET_ADDR addr` (45_host_ops.md R212). -/
def execSetAddr (addr : Byte) (s : State) : Host.Outcome State Fault Refusal :=
  .next (respond [] 0 { s with myAddress := addr })

/-- `SET_DEST lo, hi` (45_host_ops.md R213). -/
def execSetDest (lo hi : Byte) (s : State) : Host.Outcome State Fault Refusal :=
  if s.state = .active ∨ s.state = .ready then .next (respond [] 1 { s with destLow := lo, destHigh := hi })
  else .next (respond [] 0 s)

/-- The state after `APPEND x`, its output not yet recorded (45_host_ops.md R215). -/
def appendByte (x : Byte) (s : State) : State :=
  if s.state = .active ∧ s.typeSeen = true then bodyAppend x s else s

/-- `APPEND x` (45_host_ops.md R215). -/
def execAppend (x : Byte) (s : State) : Host.Outcome State Fault Refusal :=
  .next (respond [] (stateCode (appendByte x s).state) (appendByte x s))

/-- `CLEAR_NEW` (45_host_ops.md R216). -/
def execClearNew (s : State) : Host.Outcome State Fault Refusal :=
  .next (respond [] 0 (clearNew s))

end Sys2Proof.Machine
end

