-- ==== Sys2Proof/Machine/Queries.lean ====
section
/-! DEFINITION. The thirteen queries (45_host_ops.md R218 to R228, 42_address.md R146, R149). Every query is pure: it writes
no state and emits no event (R218). -/

namespace Sys2Proof.Machine

/-- A query: the state as it was, with the result recorded (45_host_ops.md R218). -/
def answer (res : Nat) (s : State) : Host.Outcome State Fault Refusal :=
  .next (respond [] res s)

/-- `GET_STATE` (45_host_ops.md R218). -/
def execGetState (s : State) : Host.Outcome State Fault Refusal := answer (stateCode s.state) s

/-- `GET_TYPE` (45_host_ops.md R219). -/
def execGetType (s : State) : Host.Outcome State Fault Refusal := answer s.msgType.toNat s

/-- `GET_SRC` (45_host_ops.md R220). -/
def execGetSrc (s : State) : Host.Outcome State Fault Refusal := answer s.src.toNat s

/-- `GET_DEST_LO` (45_host_ops.md R221). -/
def execGetDestLo (s : State) : Host.Outcome State Fault Refusal := answer s.destLow.toNat s

/-- `GET_DEST_HI` (45_host_ops.md R222). -/
def execGetDestHi (s : State) : Host.Outcome State Fault Refusal := answer s.destHigh.toNat s

/-- `GET_BODYLEN` (45_host_ops.md R223). -/
def execGetBodylen (s : State) : Host.Outcome State Fault Refusal := answer s.bodyLen s

/-- `GET_BODY idx` (45_host_ops.md R224). -/
def execGetBody (idx : Byte) (s : State) : Host.Outcome State Fault Refusal := answer (s.readBody idx.toNat).toNat s

/-- `GET_ISNEW` (45_host_ops.md R225): it does not clear the flag. -/
def execGetIsnew (s : State) : Host.Outcome State Fault Refusal := answer (bitCode s.isNew) s

/-- `TO_ME` (42_address.md R146). -/
def execToMe (s : State) : Host.Outcome State Fault Refusal := answer (bitCode (addressedToMe s)) s

/-- `TO_MASTER` (42_address.md R149). -/
def execToMaster (s : State) : Host.Outcome State Fault Refusal := answer (bitCode (addressedToMaster s)) s

/-- `GET_SENTAT` (45_host_ops.md R226). -/
def execGetSentat (s : State) : Host.Outcome State Fault Refusal := answer s.sentAt s

/-- `GET_DIR` (45_host_ops.md R227). -/
def execGetDir (s : State) : Host.Outcome State Fault Refusal := answer (dirCode s.dir) s

/-- `GET_MYADDR` (45_host_ops.md R228). -/
def execGetMyaddr (s : State) : Host.Outcome State Fault Refusal := answer s.myAddress.toNat s

end Sys2Proof.Machine
end

