-- ==== Sys2Proof/Machine/Transmit.lean ====
section
/-! DEFINITION. The transmitter (44_transmit.md): the frame composer, the byte serializer, the direction window, `SEND`. -/

namespace Sys2Proof.Machine

/-- `compose(s)` (44_transmit.md R185): the frame of the record as it stands. -/
def compose (s : State) : List Byte :=
  [s.params.SOM, s.destLow] ++
  (if s.destLow ≠ s.destHigh then [s.params.SEP, s.destHigh] else []) ++
  (if s.src ≠ s.params.MASTER then [s.src] else []) ++
  [s.params.EOH, s.msgType] ++ s.body ++ [crc8Msg s, s.params.EOM]

/-- The preconditions of `SEND` (44_transmit.md R181). -/
def sendReady (s : State) : Bool :=
  decide ((s.state = .ready ∨ s.state = .active) ∧ s.myAddress ≠ 0)

/-- Steps 2 and 3 of `SEND` up to and with the flush request (44_transmit.md R184, R186, R190). -/
def sendUpToFlush (frame : List Byte) : List Event :=
  [.dir .tx] ++ frame.map .tx ++ [.flush]

/-- `SEND` (44_transmit.md R180). Step 1 overwrites the source (R183); step 2 asserts the line (R184); step 3 serialises
the frame (R186), whose checksum covers the new source (R188); step 4 waits for the flush, and where the environment
never completes it the operation never returns (R190, R191, log 12); step 5 stores the timestamp (R192, log 14); step 6
releases the line (R194). The result is the number of bytes written (R196). -/
def execSend (s : State) : Host.Outcome State Fault Refusal :=
  if sendReady s = true then
    let s := { s with src := s.myAddress }
    let s := { s with dir := .tx }
    let frame := compose s
    if s.flushDone = true then
      let s := { s with sentAt := s.now % 2 ^ s.params.TSW }
      let s := { s with dir := .rx }
      .next (respond (sendUpToFlush frame ++ [.dir .rx]) frame.length s)
    else .fault (.flushNeverCompleted (sendUpToFlush frame))
  else .next (respond [] 0 s)

end Sys2Proof.Machine
end

