-- ==== Sys2Proof/Machine/Dispatch.lean ====
section
/-! DEFINITION. The dispatch: one arm per constructor of `Instr`, each one call of its meaning. -/

namespace Sys2Proof.Machine

def exec (i : Instr) (s : State) : Host.Outcome State Fault Refusal :=
  match i with
  | .reset => Sys2Proof.Machine.execReset s
  | .start t => Sys2Proof.Machine.execStart t s
  | .feed x => Sys2Proof.Machine.execFeed x s
  | .setAddr addr => Sys2Proof.Machine.execSetAddr addr s
  | .setDest lo hi => Sys2Proof.Machine.execSetDest lo hi s
  | .append x => Sys2Proof.Machine.execAppend x s
  | .send => Sys2Proof.Machine.execSend s
  | .clearNew => Sys2Proof.Machine.execClearNew s
  | .getState => Sys2Proof.Machine.execGetState s
  | .getType => Sys2Proof.Machine.execGetType s
  | .getSrc => Sys2Proof.Machine.execGetSrc s
  | .getDestLo => Sys2Proof.Machine.execGetDestLo s
  | .getDestHi => Sys2Proof.Machine.execGetDestHi s
  | .getBodylen => Sys2Proof.Machine.execGetBodylen s
  | .getBody idx => Sys2Proof.Machine.execGetBody idx s
  | .getIsnew => Sys2Proof.Machine.execGetIsnew s
  | .toMe => Sys2Proof.Machine.execToMe s
  | .toMaster => Sys2Proof.Machine.execToMaster s
  | .getSentat => Sys2Proof.Machine.execGetSentat s
  | .getDir => Sys2Proof.Machine.execGetDir s
  | .getMyaddr => Sys2Proof.Machine.execGetMyaddr s
  | .byteSom => Sys2Proof.Machine.execByteSom s
  | .byteEom => Sys2Proof.Machine.execByteEom s
  | .byteEoh => Sys2Proof.Machine.execByteEoh s
  | .byteSep => Sys2Proof.Machine.execByteSep s
  | .byteData x => Sys2Proof.Machine.execByteData x s

end Sys2Proof.Machine
end

