-- ==== Sys2Proof/WellFormed.lean ====
section
/-! DEFINITION. Which terms of `Instr` stand for an operation of the machine with parameter record `P`: all of them but a
`BYTE_DATA` whose byte an earlier wire row matches (opcode_table.json: that row "applies only when no earlier row
matched"). -/

namespace Sys2Proof

/-- `x` is none of the values that the first four wire rows of opcode_table.json match. -/
abbrev Params.plainByte (P : Params) (x : Byte) : Bool :=
  decide (x ≠ P.SOM ∧ x ≠ P.EOM ∧ x ≠ P.EOH ∧ x ≠ P.SEP)

/-- An instruction is well formed for `P`. Every operand is a whole byte and every byte value is defined
(30_encoding.md R75, R80), so `BYTE_DATA` is the only constructor with a condition. -/
def Instr.wellFormed (P : Params) (i : Instr) : Bool :=
  match i with
  | .byteData x => P.plainByte x
  | .reset | .start _ | .feed _ | .setAddr _ | .setDest _ _ | .append _ | .send | .clearNew => true
  | .getState | .getType | .getSrc | .getDestLo | .getDestHi | .getBodylen | .getBody _ | .getIsnew => true
  | .toMe | .toMaster | .getSentat | .getDir | .getMyaddr => true
  | .byteSom | .byteEom | .byteEoh | .byteSep => true

end Sys2Proof
end

