-- ==== Sys2Proof/Decode.lean ====
section
/-! DEFINITION. Decoding and encoding: the fields of the command word (30_encoding.md R84 to R86), the byte classes of the
wire (R75, opcode_table.json's wire rows in their priority order), rejection by name of the reserved words (R88), and
the encoder written from the same tables. -/

namespace Sys2Proof

/-- Why a word is rejected (30_encoding.md R88). Every wire byte decodes (R75). -/
inductive Reject where
  /-- operation codes 0x9 to 0xF -/
  | reservedOp (op : BitVec 4)
  /-- query selectors 0x0D to 0xFF -/
  | reservedSelector (sel : Byte)
  deriving DecidableEq, Repr

/-- `cw[19:16]`, the operation code (30_encoding.md R84). -/
def cwOp (cw : CmdWord) : BitVec 4 := cw.extractLsb' 16 4

/-- `cw[15:8]`, the first operand byte or the query selector (30_encoding.md R84). -/
def cwA (cw : CmdWord) : Byte := cw.extractLsb' 8 8

/-- `cw[7:0]`, the second operand byte or the query index (30_encoding.md R84). -/
def cwB (cw : CmdWord) : Byte := cw.extractLsb' 0 8

/-- The query selectors of 30_encoding.md R86. -/
def decodeQuery (sel idx : Byte) : Except Reject Instr :=
  match sel.toNat with
  | 0x00 => .ok .getState
  | 0x01 => .ok .getType
  | 0x02 => .ok .getSrc
  | 0x03 => .ok .getDestLo
  | 0x04 => .ok .getDestHi
  | 0x05 => .ok .getBodylen
  | 0x06 => .ok (.getBody idx)
  | 0x07 => .ok .getIsnew
  | 0x08 => .ok .toMe
  | 0x09 => .ok .toMaster
  | 0x0A => .ok .getSentat
  | 0x0B => .ok .getDir
  | 0x0C => .ok .getMyaddr
  | _ => .error (.reservedSelector sel)

/-- The operation codes of 30_encoding.md R85, by the three fields of the word. -/
def decodeFields (op : BitVec 4) (a b : Byte) : Except Reject Instr :=
  match op.toNat with
  | 0x0 => .ok .reset
  | 0x1 => .ok (.start b)
  | 0x2 => .ok (.feed b)
  | 0x3 => .ok (.setAddr b)
  | 0x4 => .ok (.setDest a b)
  | 0x5 => .ok (.append b)
  | 0x6 => .ok .send
  | 0x7 => .ok .clearNew
  | 0x8 => decodeQuery a b
  | _ => .error (.reservedOp op)

/-- The operation a command word selects (30_encoding.md R84 to R88). -/
def decodeCommand (cw : CmdWord) : Except Reject Instr :=
  decodeFields (cwOp cw) (cwA cw) (cwB cw)

/-- The wire row of a received byte: the rows of opcode_table.json in their order of priority. -/
def decodeWire (P : Params) (b : Byte) : Instr :=
  if b = P.SOM then .byteSom
  else if b = P.EOM then .byteEom
  else if b = P.EOH then .byteEoh
  else if b = P.SEP then .byteSep
  else .byteData b

/-- The decoder, total on every command word and every wire byte. -/
def decode (P : Params) (e : Encoded) : Except Reject Instr :=
  match e with
  | .command cw => decodeCommand cw
  | .wire b => .ok (decodeWire P b)

/-- The command word with the three fields `op`, `a`, `b` (30_encoding.md R84). -/
def cmdWord (op : BitVec 4) (a b : Byte) : CmdWord := (op ++ a ++ b : BitVec (4 + 8 + 8))

/-- The encoder, with 0 in every ignored operand field (30_encoding.md R85, R86). -/
def encode (P : Params) (i : Instr) : Encoded :=
  match i with
  | .reset => .command (cmdWord 0x0 0 0)
  | .start t => .command (cmdWord 0x1 0 t)
  | .feed x => .command (cmdWord 0x2 0 x)
  | .setAddr addr => .command (cmdWord 0x3 0 addr)
  | .setDest lo hi => .command (cmdWord 0x4 lo hi)
  | .append x => .command (cmdWord 0x5 0 x)
  | .send => .command (cmdWord 0x6 0 0)
  | .clearNew => .command (cmdWord 0x7 0 0)
  | .getState => .command (cmdWord 0x8 0x00 0)
  | .getType => .command (cmdWord 0x8 0x01 0)
  | .getSrc => .command (cmdWord 0x8 0x02 0)
  | .getDestLo => .command (cmdWord 0x8 0x03 0)
  | .getDestHi => .command (cmdWord 0x8 0x04 0)
  | .getBodylen => .command (cmdWord 0x8 0x05 0)
  | .getBody idx => .command (cmdWord 0x8 0x06 idx)
  | .getIsnew => .command (cmdWord 0x8 0x07 0)
  | .toMe => .command (cmdWord 0x8 0x08 0)
  | .toMaster => .command (cmdWord 0x8 0x09 0)
  | .getSentat => .command (cmdWord 0x8 0x0A 0)
  | .getDir => .command (cmdWord 0x8 0x0B 0)
  | .getMyaddr => .command (cmdWord 0x8 0x0C 0)
  | .byteSom => .wire P.SOM
  | .byteEom => .wire P.EOM
  | .byteEoh => .wire P.EOH
  | .byteSep => .wire P.SEP
  | .byteData x => .wire x

/-- The encoded form of a row of opcode_table.json: `nbits` at most 8 is a wire byte (format `wire8`), anything longer a
20-bit command word (format `cmd20`), `none` where `w` does not fit (DESIGN CHOICE, log 5). -/
def encodedOfTable (nbits w : Nat) : Option Encoded :=
  if nbits ≤ 8 then (if w < 2 ^ 8 then some (.wire (BitVec.ofNat 8 w)) else none)
  else (if w < 2 ^ 20 then some (.command (BitVec.ofNat 20 w)) else none)

/-- The instruction the decoder reads from a row's bits. The wire rows of opcode_table.json carry the values of `P_REF`
("match is the P_REF value"), so this view decodes under `Params.ref` (log 6). -/
def decodeTableWord (nbits w : Nat) : Option Instr :=
  match encodedOfTable nbits w with
  | none => none
  | some e =>
    match decode Params.ref e with
    | .ok i => some i
    | .error _ => none

end Sys2Proof
end

