-- ==== Sys2Proof/Machine/Fetch.lean ====
section
/-! DEFINITION. Taking the next operation from the environment (00_scope.md R8, R9, R60): there is no program counter and no
instruction memory (10_state.md R33); the stream of operations is consumed once, in order (20_memory.md R63). -/

namespace Sys2Proof.Machine

/-- What the fetch finds. -/
inductive Fetched where
  /-- no operation has been issued: the engine is idle (60_exceptions.md R260) -/
  | idle
  /-- the operation `i`, to be executed at `s`, which has it consumed and its `Env` in place -/
  | run (i : Instr) (s : State)
  /-- no operation of the machine -/
  | rejected (r : Refusal)
  deriving DecidableEq, Repr

/-- The refusal that names a rejected word (30_encoding.md R88). -/
def refusalOf (r : Reject) : Refusal :=
  match r with
  | .reservedOp op => .reservedOp op
  | .reservedSelector sel => .reservedSelector sel

/-- The state with one operation consumed and its `Env` in place. -/
def takeInput (inp : Input) (rest : List Input) (s : State) : State :=
  { s with inputs := rest, now := inp.now, flushDone := inp.flushDone }

/-- The next operation. A parameter record that breaks a required constraint is refused whatever is issued (00_scope.md
R6, log 2). -/
def fetch (s : State) : Fetched :=
  if paramsLegal s.params then
    match s.inputs with
    | [] => .idle
    | inp :: rest =>
      match decode s.params inp.word with
      | .ok i => .run i (takeInput inp rest s)
      | .error r => .rejected (refusalOf r)
  else .rejected .illegalParams

/-- The state with the operation `e` issued as the next one, under the `Env` the state shows. -/
def issueNext (e : Encoded) (s : State) : State :=
  { s with inputs := ⟨e, s.now, s.flushDone⟩ :: s.inputs }

end Sys2Proof.Machine
end

