-- ==== Sys2Proof/Machine/Step.lean ====
section
/-! DEFINITION. One step: the next operation the environment has issued, executed as a whole (00_scope.md R8); with none
issued the engine holds its state (60_exceptions.md R260). -/

namespace Sys2Proof.Machine

/-- One step of the machine. -/
def step (s : State) : Host.Outcome State Fault Refusal :=
  match fetch s with
  | .idle => .next s
  | .run i t => exec i t
  | .rejected r => .refused r

/-- `s` with the instruction of a row's bits issued as the next operation (log 4): a wire byte for rows of at most 8 bits,
a command word otherwise (log 5). Where `w` does not fit, nothing is issued. -/
def State.withFetchWord (s : State) (nbits w : Nat) : State :=
  match encodedOfTable nbits w with
  | some e => issueNext e s
  | none => s

end Sys2Proof.Machine
end

