-- ==== Sys2Proof/Safety.lean ====
section
/-! DEFINITION. The terms in which claims about the engine are stated: its invariants (10_state.md R36), equality of the
spec's own state, which operations are queries and which hand over a received byte, the edges of the `state` register
(40_framing.md R119), the opcode table's rows, and what it is for an operation to answer. -/

namespace Sys2Proof.Machine

/-- The invariants of 10_state.md R36, under a legal parameter record (00_scope.md R6). I2 (the terminator) is what
`State.readBody` returns at `bodyLen`; I3 (no write out of bounds) and I8 (six codes) hold by the types, see log 8. The
last four fields are further consequences of the rules the spec names beside the table. -/
structure Inv (s : State) : Prop where
  /-- 00_scope.md R6, 70_reset_and_hazards.md R275 -/
  params : paramsLegal s.params = true
  /-- I1, and the header buffer's form (10_state.md R32, R40) -/
  memory : Memory.wf s = true
  /-- I4 -/
  dir : s.dir = .rx
  /-- I5 -/
  idle : s.state = .idle → s.msgType = 0 ∧ s.typeSeen = false ∧ s.src = 0 ∧ s.destLow = 0 ∧ s.destHigh = 0 ∧
    s.body = [] ∧ s.hdrLen = 0
  /-- I6 -/
  header : s.state = .header → s.msgType = 0 ∧ s.typeSeen = false ∧ s.body = []
  /-- I7 -/
  typeSeen : s.typeSeen = false → s.body = []
  /-- the destination and source fields are still cleared in HEADER (41_header.md R131) -/
  headerFields : s.state = .header → s.src = 0 ∧ s.destLow = 0 ∧ s.destHigh = 0
  /-- a type is set only together with `typeSeen` (40_framing.md R110, 45_host_ops.md R211) -/
  noType : s.typeSeen = false → s.msgType = 0
  /-- a complete frame has had its type byte (40_framing.md R113, R117) -/
  ready : s.state = .ready → s.typeSeen = true
  /-- `sentAt` is a `P.TSW`-bit value (10_state.md R28) -/
  sentAt : s.sentAt < 2 ^ s.params.TSW

/-- Two states agree in the parameter record and in everything the spec gives the machine (10_state.md R20). -/
def sameEngine (s t : State) : Prop :=
  s.params = t.params ∧ s.state = t.state ∧ s.msgType = t.msgType ∧ s.typeSeen = t.typeSeen ∧ s.src = t.src ∧
  s.destLow = t.destLow ∧ s.destHigh = t.destHigh ∧ s.body = t.body ∧ s.hdr = t.hdr ∧ s.hdrLen = t.hdrLen ∧
  s.myAddress = t.myAddress ∧ s.sentAt = t.sentAt ∧ s.isNew = t.isNew ∧ s.dir = t.dir

/-- `i` at `s` answers with the next state `u`, its events `evs` and its result `res` recorded as one output. Only the
model's counter of buffer writes is left open. -/
def answers (i : Instr) (s : State) (evs : List Event) (res : Nat) (u : State) : Prop :=
  ∃ k : Nat, exec i s = .next (respond evs res { u with bufferWrites := k })

/-- The message fields as the message reset leaves them (40_framing.md R100), in the state `e`, the rest as in `s`. -/
def cleared (e : EngineState) (s : State) : State :=
  { s with state := e, msgType := 0, typeSeen := false, src := 0, destLow := 0, destHigh := 0, body := [], hdr := [],
           hdrLen := 0, isNew := true }

/-- The thirteen queries (30_encoding.md R86). -/
def isQuery (i : Instr) : Bool :=
  match i with
  | .getState | .getType | .getSrc | .getDestLo | .getDestHi | .getBodylen | .getBody _ | .getIsnew => true
  | .toMe | .toMaster | .getSentat | .getDir | .getMyaddr => true
  | .reset | .start _ | .feed _ | .setAddr _ | .setDest _ _ | .append _ | .send | .clearNew => false
  | .byteSom | .byteEom | .byteEoh | .byteSep | .byteData _ => false

/-- The received byte that an operation hands to the engine: `FEED` and the five wire rows (00_scope.md R9). -/
def fedByte (P : Params) (i : Instr) : Option Byte :=
  match i with
  | .feed x => some x
  | .byteSom => some P.SOM
  | .byteEom => some P.EOM
  | .byteEoh => some P.EOH
  | .byteSep => some P.SEP
  | .byteData x => some x
  | .reset | .start _ | .setAddr _ | .setDest _ _ | .append _ | .send | .clearNew => none
  | .getState | .getType | .getSrc | .getDestLo | .getDestHi | .getBodylen | .getBody _ | .getIsnew => none
  | .toMe | .toMaster | .getSentat | .getDir | .getMyaddr => none

/-- The operation performs the message reset: `RESET`, `START`, a start-of-message byte, or an end-of-message byte in IDLE
or HEADER (the callers of 40_framing.md R100). -/
def resetsMessage (s : State) (i : Instr) : Prop :=
  i = .reset ∨ (∃ x, i = .start x) ∨ fedByte s.params i = some s.params.SOM ∨
  (fedByte s.params i = some s.params.EOM ∧ (s.state = .idle ∨ s.state = .header))

/-- The operation runs the header parser: an end-of-header byte in HEADER (40_framing.md R109). -/
def runsParser (s : State) (i : Instr) : Prop :=
  fedByte s.params i = some s.params.EOH ∧ s.state = .header

/-- The states a received byte may lead to: the `FEED` rows of 40_framing.md R119. -/
def fedEdges (P : Params) (e : EngineState) (x : Byte) : List EngineState :=
  if x = P.SOM then [.header]
  else
    match e with
    | .ready | .overflow | .aborted => [e]
    | .idle => [.idle]
    | .header => if x = P.EOM then [.idle] else if x = P.EOH then [.active, .aborted] else [.header]
    | .active => if x = P.EOM then [.ready, .aborted] else [.active, .overflow]

/-- The states an operation may lead to: all the edges of 40_framing.md R119. -/
def edges (P : Params) (e : EngineState) (i : Instr) : List EngineState :=
  match i with
  | .feed x => fedEdges P e x
  | .byteSom => fedEdges P e P.SOM
  | .byteEom => fedEdges P e P.EOM
  | .byteEoh => fedEdges P e P.EOH
  | .byteSep => fedEdges P e P.SEP
  | .byteData x => fedEdges P e x
  | .reset => [.idle]
  | .start t => if t = 0 then [.idle] else [.active]
  | .append _ => if e = .active then [.active, .overflow] else [e]
  | .setAddr _ | .setDest _ _ | .send | .clearNew => [e]
  | .getState | .getType | .getSrc | .getDestLo | .getDestHi | .getBodylen | .getBody _ | .getIsnew => [e]
  | .toMe | .toMaster | .getSentat | .getDir | .getMyaddr => [e]

/-- An event of the direction line or the transmitter (44_transmit.md R195). -/
def isBusEvent (e : Event) : Bool :=
  match e with
  | .dir _ | .tx _ | .flush => true
  | .crcMismatch _ _ => false

/-- The mnemonic of an operation, as opcode_table.json spells it. -/
def mnemonic (i : Instr) : String :=
  match i with
  | .reset => "RESET"
  | .start _ => "START"
  | .feed _ => "FEED"
  | .setAddr _ => "SET_ADDR"
  | .setDest _ _ => "SET_DEST"
  | .append _ => "APPEND"
  | .send => "SEND"
  | .clearNew => "CLEAR_NEW"
  | .getState => "GET_STATE"
  | .getType => "GET_TYPE"
  | .getSrc => "GET_SRC"
  | .getDestLo => "GET_DEST_LO"
  | .getDestHi => "GET_DEST_HI"
  | .getBodylen => "GET_BODYLEN"
  | .getBody _ => "GET_BODY"
  | .getIsnew => "GET_ISNEW"
  | .toMe => "TO_ME"
  | .toMaster => "TO_MASTER"
  | .getSentat => "GET_SENTAT"
  | .getDir => "GET_DIR"
  | .getMyaddr => "GET_MYADDR"
  | .byteSom => "BYTE_SOM"
  | .byteEom => "BYTE_EOM"
  | .byteEoh => "BYTE_EOH"
  | .byteSep => "BYTE_SEP"
  | .byteData _ => "BYTE_DATA"

/-- A command row of opcode_table.json: a word is the row's when `word and mask = value`. -/
structure CommandRow where
  mnemonic : String
  value : CmdWord
  mask : CmdWord
  deriving DecidableEq, Repr

/-- The 21 command rows (format `cmd20`) of opcode_table.json. -/
def commandRows : List CommandRow :=
  [⟨"RESET", 0x00000, 0xF0000⟩, ⟨"START", 0x10000, 0xF0000⟩, ⟨"FEED", 0x20000, 0xF0000⟩,
   ⟨"SET_ADDR", 0x30000, 0xF0000⟩, ⟨"SET_DEST", 0x40000, 0xF0000⟩, ⟨"APPEND", 0x50000, 0xF0000⟩,
   ⟨"SEND", 0x60000, 0xF0000⟩, ⟨"CLEAR_NEW", 0x70000, 0xF0000⟩] ++
  [⟨"GET_STATE", 0x80000, 0xFFF00⟩, ⟨"GET_TYPE", 0x80100, 0xFFF00⟩, ⟨"GET_SRC", 0x80200, 0xFFF00⟩,
   ⟨"GET_DEST_LO", 0x80300, 0xFFF00⟩, ⟨"GET_DEST_HI", 0x80400, 0xFFF00⟩, ⟨"GET_BODYLEN", 0x80500, 0xFFF00⟩,
   ⟨"GET_BODY", 0x80600, 0xFFF00⟩, ⟨"GET_ISNEW", 0x80700, 0xFFF00⟩, ⟨"TO_ME", 0x80800, 0xFFF00⟩,
   ⟨"TO_MASTER", 0x80900, 0xFFF00⟩, ⟨"GET_SENTAT", 0x80A00, 0xFFF00⟩, ⟨"GET_DIR", 0x80B00, 0xFFF00⟩,
   ⟨"GET_MYADDR", 0x80C00, 0xFFF00⟩]

end Sys2Proof.Machine
end

