-- ==== Sys2Proof/Certificates/Slice0/Obligations.lean ====
section
/-! DEFINITION. What is claimed of the machine, one statement per definition. A docstring names the rule or the section of
spec/ a statement formalises; where that text is a decision or an inference the spec marks as its own, the docstring
names it. The numbers that operations return are its decisions D3, D4 and D5 everywhere. `fedByte P i = some x` says that
`i` is `FEED x` or the wire row (`BYTE_SOM`, `BYTE_EOM`, `BYTE_EOH`, `BYTE_SEP`, `BYTE_DATA x`) that stands for the byte
`x` under `P`; `answers i s evs res u` says that `exec i s` is the next state `u` with the output `⟨evs, res⟩` appended and
everything else as in `u`, up to the model's counter of buffer writes. A next state written as an update of `s` states the
frame too: what is not named is unchanged. -/

open Sys2Proof Sys2Proof.Machine

/-! ### Encodings -/

/-- Decoding an encoded well-formed instruction gives it back, for every instruction, every operand and every legal
parameter record (30_encoding.md sections 2 and 4: the word and its numbers are the spec's decision D4). -/
def Obligations.DecodeInvertsEncode : Prop :=
  ∀ (P : Params) (i : Instr), paramsLegal P = true → i.wellFormed P = true → decode P (encode P i) = .ok i

/-- The command rows of 30_encoding.md section 4, each with every value of its operand fields and of its ignored fields. -/
def Obligations.CommandWordFields : Prop :=
  ∀ a b : Byte,
    decodeCommand (cmdWord 0x0 a b) = .ok .reset ∧
    decodeCommand (cmdWord 0x1 a b) = .ok (.start b) ∧
    decodeCommand (cmdWord 0x2 a b) = .ok (.feed b) ∧
    decodeCommand (cmdWord 0x3 a b) = .ok (.setAddr b) ∧
    decodeCommand (cmdWord 0x4 a b) = .ok (.setDest a b) ∧
    decodeCommand (cmdWord 0x5 a b) = .ok (.append b) ∧
    decodeCommand (cmdWord 0x6 a b) = .ok .send ∧
    decodeCommand (cmdWord 0x7 a b) = .ok .clearNew ∧
    decodeCommand (cmdWord 0x8 0x00 b) = .ok .getState ∧
    decodeCommand (cmdWord 0x8 0x01 b) = .ok .getType ∧
    decodeCommand (cmdWord 0x8 0x02 b) = .ok .getSrc ∧
    decodeCommand (cmdWord 0x8 0x03 b) = .ok .getDestLo ∧
    decodeCommand (cmdWord 0x8 0x04 b) = .ok .getDestHi ∧
    decodeCommand (cmdWord 0x8 0x05 b) = .ok .getBodylen ∧
    decodeCommand (cmdWord 0x8 0x06 b) = .ok (.getBody b) ∧
    decodeCommand (cmdWord 0x8 0x07 b) = .ok .getIsnew ∧
    decodeCommand (cmdWord 0x8 0x08 b) = .ok .toMe ∧
    decodeCommand (cmdWord 0x8 0x09 b) = .ok .toMaster ∧
    decodeCommand (cmdWord 0x8 0x0A b) = .ok .getSentat ∧
    decodeCommand (cmdWord 0x8 0x0B b) = .ok .getDir ∧
    decodeCommand (cmdWord 0x8 0x0C b) = .ok .getMyaddr

/-- The decoder and opcode_table.json's masks agree on every word: a word is a row's exactly when it decodes to an
instruction of that mnemonic, and a word of no row decodes to nothing. -/
def Obligations.OpcodeTableSelects : Prop :=
  ∀ cw : CmdWord,
    (∀ row ∈ commandRows,
      (cw &&& row.mask = row.value ↔ ∃ i, decodeCommand cw = .ok i ∧ mnemonic i = row.mnemonic)) ∧
    ((∀ row ∈ commandRows, cw &&& row.mask ≠ row.value) → ∃ r, decodeCommand cw = .error r)

/-- The reserved operation codes 0x9 to 0xF and query selectors 0x0D to 0xFF are rejected by name, a machine given such a
word refuses it, and `GET_BODY` is no reserved encoding whatever its index (30_encoding.md R88; the spec's decision
D21). -/
def Obligations.ReservedWordsRefused : Prop :=
  (∀ (op : BitVec 4) (a b : Byte), 9 ≤ op.toNat → decodeCommand (cmdWord op a b) = .error (.reservedOp op)) ∧
  (∀ sel idx : Byte, 0x0D ≤ sel.toNat → decodeCommand (cmdWord 8 sel idx) = .error (.reservedSelector sel)) ∧
  (∀ (s : State) (cw : CmdWord) (n : Nat) (f : Bool) (rest : List Input) (r : Reject),
    paramsLegal s.params = true → s.inputs = ⟨.command cw, n, f⟩ :: rest → decodeCommand cw = .error r →
    step s = .refused (refusalOf r)) ∧
  (∀ idx : Byte, decodeCommand (cmdWord 8 0x06 idx) = .ok (.getBody idx))

/-- Every received byte decodes, to a well-formed instruction that hands over exactly that byte and is encoded as it
(30_encoding.md section 2: the byte decoder is total). -/
def Obligations.EveryWireByteDecodes : Prop :=
  ∀ (P : Params) (b : Byte), ∃ i, decode P (.wire b) = .ok i ∧ i.wellFormed P = true ∧ fedByte P i = some b ∧
    encode P i = .wire b

/-- Words written out from the tables: the command words of 30_encoding.md section 4, and two wire bytes of its section 2
under `P_REF` (00_scope.md section 3, the spec's decision D2). That a number of at most 8 bits is read as a wire byte and
a longer one as a command word is the model's choice (log 5), and that the table's wire rows are read under `P_REF` its
inference (log 6). -/
def Obligations.TableWordsDecode : Prop :=
  decodeTableWord 24 0x00000 = some .reset ∧ decodeTableWord 24 0x10043 = some (.start 0x43) ∧
  decodeTableWord 24 0x2003C = some (.feed 0x3C) ∧ decodeTableWord 24 0x40207 = some (.setDest 2 7) ∧
  decodeTableWord 24 0x60000 = some .send ∧ decodeTableWord 24 0x80603 = some (.getBody 3) ∧
  decodeTableWord 24 0x80800 = some .toMe ∧ decodeTableWord 8 0x3C = some .byteSom ∧
  decodeTableWord 8 0x2D = some .byteSep ∧ decodeTableWord 24 0x90000 = none

/-! ### Steps, reset, parameters -/

/-- A step runs the decoded instruction: it consumes the oldest issued operation, puts its `Env` in place and executes
(00_scope.md section 4, 20_memory.md section 5; the queue is the model's, log 4). -/
def Obligations.StepRunsTheDecodedOperation : Prop :=
  ∀ (s : State) (inp : Input) (rest : List Input) (i : Instr),
    paramsLegal s.params = true → s.inputs = inp :: rest → decode s.params inp.word = .ok i →
    step s = exec i { s with inputs := rest, now := inp.now, flushDone := inp.flushDone }

/-- With no operation issued the engine holds its state (60_exceptions.md section 7, R260: "Between operations it is idle
and holds its state"). -/
def Obligations.IdleStepHoldsState : Prop :=
  ∀ s : State, paramsLegal s.params = true → s.inputs = [] → step s = .next s

/-- A parameter record is refused exactly when it breaks a constraint that 00_scope.md R6 marks required (the spec's
decisions D2, D19 among them). -/
def Obligations.RequiredParametersEnforced : Prop :=
  ∀ s : State,
    let P := s.params
    (step s = .refused .illegalParams ↔
      ¬ (P.SOM ≠ P.EOH ∧ P.SOM ≠ P.EOM ∧ P.EOH ≠ P.EOM ∧ P.SEP ≠ P.SOM ∧ P.SEP ≠ P.EOH ∧ P.SEP ≠ P.EOM ∧
        P.MASTER ≠ P.ALL ∧ ¬ (1 ≤ P.MASTER.toNat ∧ P.MASTER.toNat ≤ P.N) ∧
        ¬ (1 ≤ P.ALL.toNat ∧ P.ALL.toNat ≤ P.N) ∧ 2 ≤ P.C ∧ 1 ≤ P.TSW))

/-- The state after power-on, for every parameter record (10_state.md R38, the spec's decision D14), and that the reset
machine is the one built with `P_REF` (the model's choice, log 1). The terminator reads 0x00. -/
def Obligations.PowerOnState : Prop :=
  (∀ P : Params,
    let s := State.powerOn P
    s.params = P ∧ s.state = .idle ∧ s.msgType = 0 ∧ s.typeSeen = false ∧ s.src = 0 ∧ s.destLow = 0 ∧ s.destHigh = 0 ∧
    s.bodyLen = 0 ∧ s.readBody 0 = 0 ∧ s.hdrLen = 0 ∧ s.myAddress = 0 ∧ s.sentAt = 0 ∧ s.isNew = true ∧ s.dir = .rx ∧
    s.outputs = []) ∧
  State.reset = State.powerOn Params.ref

/-! ### Framing: RESET, FEED and the wire rows -/

/-- `RESET`: its words, its effect from every state, and that `START 0` is the same operation (40_framing.md R120). -/
def Obligations.ResetClearsTheMessage : Prop :=
  (∀ a b : Byte, decodeCommand (cmdWord 0x0 a b) = .ok .reset) ∧
  ∀ s : State, answers .reset s [] 0 (cleared .idle s) ∧ exec (.start 0) s = exec .reset s

/-- Each wire row is `FEED` of the byte it stands for (00_scope.md section 4, the receive driver). -/
def Obligations.WireRowIsFeed : Prop :=
  ∀ (s : State) (x : Byte) (i : Instr), decode s.params (.wire x) = .ok i → exec i s = exec (.feed x) s

/-- A start-of-message byte restarts from every state, and any number of them leave the engine as one does (40_framing.md
R103). For `FEED`, `BYTE_SOM`. -/
def Obligations.SomRestartsFromAnyState : Prop :=
  (∀ (s : State) (i : Instr), fedByte s.params i = some s.params.SOM → answers i s [] 1 (cleared .header s)) ∧
  (∀ (s : State) (n : Nat),
    sameEngine (feedSeq (List.replicate (n + 1) s.params.SOM) s) (feedSeq [s.params.SOM] s))

/-- In a terminal state every byte but the start-of-message byte changes nothing and emits nothing; the result is the
state code (40_framing.md R104). For `FEED` and all five wire rows. -/
def Obligations.TerminalStateIgnoresBytes : Prop :=
  ∀ (s : State) (i : Instr) (x : Byte), fedByte s.params i = some x → x ≠ s.params.SOM →
    (s.state = .ready → exec i s = .next { s with outputs := s.outputs ++ [⟨[], 3⟩] }) ∧
    (s.state = .overflow → exec i s = .next { s with outputs := s.outputs ++ [⟨[], 4⟩] }) ∧
    (s.state = .aborted → exec i s = .next { s with outputs := s.outputs ++ [⟨[], 5⟩] })

/-- A stray end-of-message byte in IDLE or HEADER is the message reset, without an event (40_framing.md R105, R106). In
IDLE, where the invariants hold, it changes nothing but `isNew`. For `FEED`, `BYTE_EOM`. -/
def Obligations.StrayEndResetsToIdle : Prop :=
  ∀ (s : State) (i : Instr), paramsLegal s.params = true → fedByte s.params i = some s.params.EOM →
    (s.state = .header → answers i s [] 0 (cleared .idle s)) ∧
    (s.state = .idle → answers i s [] 0 (cleared .idle s)) ∧
    (s.state = .idle → Inv s → answers i s [] 0 { s with isNew := true })

/-- In IDLE every byte but the two message markers is ignored (40_framing.md R107; the spec's decision D5). For `FEED`,
`BYTE_EOH`, `BYTE_SEP`, `BYTE_DATA`. -/
def Obligations.IdleIgnoresOtherBytes : Prop :=
  ∀ (s : State) (i : Instr) (x : Byte), fedByte s.params i = some x → x ≠ s.params.SOM → x ≠ s.params.EOM →
    s.state = .idle → exec i s = .next { s with outputs := s.outputs ++ [⟨[], 0⟩] }

/-- A data byte in HEADER: five are stored, the count saturates at 6, the state stays HEADER (40_framing.md R108,
20_memory.md R56; the spec's decision D8). For `FEED`, `BYTE_SEP`, `BYTE_DATA`. -/
def Obligations.HeaderCollectsBytes : Prop :=
  ∀ (s : State) (i : Instr) (x : Byte), fedByte s.params i = some x → x ≠ s.params.SOM → x ≠ s.params.EOM →
    x ≠ s.params.EOH → s.state = .header →
    (s.hdrLen < 5 → answers i s [] 1 { s with hdr := s.hdr ++ [x], hdrLen := s.hdrLen + 1 }) ∧
    (s.hdrLen = 5 → answers i s [] 1 { s with hdrLen := 6 }) ∧
    (5 < s.hdrLen → answers i s [] 1 s)

/-- An end-of-header byte in HEADER runs the parser once, which leaves ACTIVE or ABORTED; the marker is not stored
(40_framing.md R109). For `FEED`, `BYTE_EOH`. -/
def Obligations.EndOfHeaderRunsParser : Prop :=
  ∀ (s : State) (i : Instr), paramsLegal s.params = true → s.state = .header →
    fedByte s.params i = some s.params.EOH →
    answers i s [] (stateCode (parseHeader s).state) (parseHeader s) ∧
    ((parseHeader s).state = .active ∨ (parseHeader s).state = .aborted) ∧
    (parseHeader s).hdr = s.hdr ∧ (parseHeader s).hdrLen = s.hdrLen

/-- An empty header and one of more than five bytes are ABORTED when the end-of-header byte arrives, with nothing else
written: where the invariants hold the fields are still cleared. The check is not made before: a byte that is collected
leaves HEADER whatever the count, the sixth among them (41_header.md R131). The first clause is for `FEED`, `BYTE_EOH`,
the second for `FEED`, `BYTE_SEP`, `BYTE_DATA`. -/
def Obligations.HeaderLengthIsChecked : Prop :=
  (∀ (s : State) (i : Instr), Inv s → s.state = .header → fedByte s.params i = some s.params.EOH →
    (s.hdrLen = 0 ∨ 5 < s.hdrLen) →
    exec i s = .next { s with state := .aborted, outputs := s.outputs ++ [⟨[], 5⟩] } ∧
    s.destLow = 0 ∧ s.destHigh = 0 ∧ s.src = 0 ∧ s.msgType = 0 ∧ s.bodyLen = 0) ∧
  (∀ (s : State) (i : Instr) (x : Byte), s.state = .header → fedByte s.params i = some x → x ≠ s.params.SOM →
    x ≠ s.params.EOM → x ≠ s.params.EOH → ∃ t, exec i s = .next t ∧ t.state = .header)

/-- Every header shape and its result (41_header.md R138, which the spec derives; the two-byte header that ends in the
separator is its decision D9, the surplus bytes its decision D10). For `FEED`, `BYTE_EOH`. -/
def Obligations.HeaderShapes : Prop :=
  ∀ (s : State) (i : Instr) (a b c d e : Byte), Inv s → s.state = .header → fedByte s.params i = some s.params.EOH →
    let P := s.params
    let parsed (lo hi sr : Byte) : Prop :=
      answers i s [] 2 { s with state := .active, destLow := lo, destHigh := hi, src := sr, body := [] }
    (s.hdr = [a] → parsed a a P.MASTER) ∧
    (s.hdr = [a, b] → b ≠ P.SEP → parsed a a b) ∧
    (s.hdr = [a, P.SEP] → exec i s = .next { s with state := .aborted, outputs := s.outputs ++ [⟨[], 5⟩] }) ∧
    (s.hdr = [a, P.SEP, c] → parsed a c P.MASTER) ∧
    (s.hdr = [a, b, c] → b ≠ P.SEP → parsed a a b) ∧
    (s.hdr = [a, P.SEP, c, d] → parsed a c d) ∧
    (s.hdr = [a, b, c, d] → b ≠ P.SEP → parsed a a b) ∧
    (s.hdr = [a, P.SEP, c, d, e] → s.hdrLen = 5 → parsed a c d) ∧
    (s.hdr = [a, b, c, d, e] → s.hdrLen = 5 → b ≠ P.SEP → parsed a a b)

/-- When no header byte remains after the destination the source is the master address, stored as a received one would
be, and hashed (41_header.md R135). For `FEED`, `BYTE_EOH`. -/
def Obligations.MissingSourceIsMaster : Prop :=
  ∀ (s : State) (i : Instr) (lo hi : Byte), Inv s → s.state = .header → fedByte s.params i = some s.params.EOH →
    (s.hdr = [lo] ∧ hi = lo ∨ s.hdr = [lo, s.params.SEP, hi]) →
    ∃ t, exec i s = .next t ∧ t.src = s.params.MASTER ∧
      crc8Msg t = crc8 ([lo, hi, s.params.MASTER, t.msgType] ++ t.body)

/-- A parsed header resets the body position and enters ACTIVE, with `type` and `typeSeen` still 0, so that the next data
byte is taken as the type (41_header.md R137). For `FEED`, `BYTE_EOH`. -/
def Obligations.ParsedHeaderEntersActive : Prop :=
  ∀ (s : State) (i : Instr) (lo hi sr : Byte), Inv s → s.state = .header → fedByte s.params i = some s.params.EOH →
    1 ≤ s.hdrLen → s.hdrLen ≤ 5 → headerFields s.params s.hdr = some (lo, hi, sr) →
    ∃ t, exec i s = .next t ∧ t.state = .active ∧ t.bodyLen = 0 ∧ t.readBody 0 = 0 ∧ t.msgType = 0 ∧
      t.typeSeen = false ∧
      ∀ x, x ≠ s.params.SOM → x ≠ s.params.EOM → (feedStep x t).msgType = x ∧ (feedStep x t).bodyLen = 0

/-- The first data byte in ACTIVE is the type, whatever its value, and is not stored in the body (40_framing.md R110; the
spec's decision D6). For `FEED`, `BYTE_EOH`, `BYTE_SEP`, `BYTE_DATA`. -/
def Obligations.FirstActiveByteIsType : Prop :=
  ∀ (s : State) (i : Instr) (x : Byte), fedByte s.params i = some x → x ≠ s.params.SOM → x ≠ s.params.EOM →
    s.state = .active → s.typeSeen = false →
    exec i s = .next { s with msgType := x, typeSeen := true, outputs := s.outputs ++ [⟨[], 2⟩] }

/-- A later data byte in ACTIVE is appended while `bodyLen < C - 1`, and at `bodyLen = C - 1` it is dropped and the state
becomes OVERFLOW (40_framing.md R111, 20_memory.md R53; the boundary is the spec's decision D7). The byte goes to index
`bodyLen` and the terminator to the index after it; every byte below reads as before. For `FEED`, `BYTE_EOH`,
`BYTE_SEP`, `BYTE_DATA`. -/
def Obligations.LaterActiveByteIsAppended : Prop :=
  ∀ (s : State) (i : Instr) (x : Byte), fedByte s.params i = some x → x ≠ s.params.SOM → x ≠ s.params.EOM →
    s.state = .active → s.typeSeen = true →
    (s.bodyLen < s.params.C - 1 → answers i s [] 2 { s with body := s.body ++ [x] } ∧
      ∀ t, exec i s = .next t → t.readBody s.bodyLen = x ∧ t.readBody (s.bodyLen + 1) = 0 ∧
        ∀ j, j < s.bodyLen → t.readBody j = s.readBody j) ∧
    (s.params.C - 1 ≤ s.bodyLen → exec i s = .next { s with state := .overflow, outputs := s.outputs ++ [⟨[], 4⟩] })

/-- The end-of-message byte in ACTIVE pops the last buffered byte and compares it with the checksum of the fields after
the pop: equal is READY with `isNew` set, different is ABORTED with the mismatch reported, and nothing buffered is
ABORTED without an event (40_framing.md R113; R115, R116, R117 are the spec's decisions D13, D20, D11). For `FEED`,
`BYTE_EOM`. -/
def Obligations.EndOfFrameChecksTheChecksum : Prop :=
  ∀ (s : State) (i : Instr) (b : List Byte) (rx : Byte), paramsLegal s.params = true → s.state = .active →
    fedByte s.params i = some s.params.EOM →
    let sum := crc8 ([s.destLow, s.destHigh, s.src, s.msgType] ++ b)
    (s.body = b ++ [rx] → rx = sum → answers i s [] 3 { s with state := .ready, body := b, isNew := true }) ∧
    (s.body = b ++ [rx] → rx ≠ sum → answers i s [.crcMismatch rx sum] 5 { s with state := .aborted, body := b }) ∧
    (s.body = [] → exec i s = .next { s with state := .aborted, outputs := s.outputs ++ [⟨[], 5⟩] })

/-- Feeding data bytes to an ACTIVE engine whose type is set and whose body is empty: up to `C - 1` of them are held, and
any more leave OVERFLOW with the first `C - 1` (40_framing.md R112, which the spec derives; 95_test_vectors.md S3). -/
def Obligations.CapacityFromTheWire : Prop :=
  ∀ (s : State) (bs : List Byte), s.state = .active → s.typeSeen = true → s.body = [] →
    (∀ x ∈ bs, x ≠ s.params.SOM ∧ x ≠ s.params.EOM) →
    (feedSeq bs s).body = bs.take (s.params.C - 1) ∧
    (feedSeq bs s).state = (if bs.length ≤ s.params.C - 1 then .active else .overflow)

/-- After a start-of-message byte reception does not depend on the message that was there: two engines with the same
parameters, address, timestamp and line agree after it and any further bytes (40_framing.md section 2: it "discards all
progress and restarts parsing cleanly"). -/
def Obligations.SomForgetsTheMessage : Prop :=
  ∀ (s t : State) (bs : List Byte), s.params = t.params → s.myAddress = t.myAddress → s.sentAt = t.sentAt →
    s.dir = t.dir → sameEngine (feedSeq (s.params.SOM :: bs) s) (feedSeq (s.params.SOM :: bs) t)

/-- Reception does not depend on the node's address: the framing of a byte sequence is the same on every node
(95_test_vectors.md PR2, 40_framing.md section 2: `FEED` never touches `myAddress`). -/
def Obligations.FramingIgnoresTheAddress : Prop :=
  ∀ (s : State) (bs : List Byte) (addr : Byte),
    feedSeq bs { s with myAddress := addr } = { feedSeq bs s with myAddress := addr }

/-- `FEEDSEQ` (30_encoding.md R82). As many steps over an input of received bytes, each in wire form or as a `FEED` word,
leave what `feedSeq` leaves (the queue is the model's, log 4); each `FEED` records one output; the events of `FEEDSEQ` are
theirs one after the other, and its result is that of the last of them; the empty sequence performs nothing and returns
the current state code. -/
def Obligations.FeedSequenceIsItsSteps : Prop :=
  ∀ (s : State) (bs : List Byte),
    (paramsLegal s.params = true →
      List.Forall₂ (fun inp b => (inp.word = .wire b ∨ ∃ a, inp.word = .command (cmdWord 0x2 a b)) ∧
        inp.now = s.now ∧ inp.flushDone = s.flushDone) s.inputs bs →
      Host.Core.run Sys2Proof.core bs.length s = .next (feedSeq bs { s with inputs := [] })) ∧
    (∃ outs : List Output, (feedSeq bs s).outputs = s.outputs ++ outs ∧ outs.length = bs.length ∧
      (feedSeqOutput bs s).events = (outs.map (·.events)).flatten ∧
      ∀ o, outs.getLast? = some o → (feedSeqOutput bs s).result = o.result) ∧
    (bs = [] → feedSeq bs s = s ∧ feedSeqOutput bs s = ⟨[], stateCode s.state⟩)

/-! ### The CRC-8 engine -/

/-- The bit-serial update and the table of 43_crc8.md R162 agree on every pair of bytes (the spec derives the table). -/
def Obligations.CrcTableForm : Prop :=
  ∀ c b : Byte, crc8Update c b = crcTable (c ^^^ b)

/-- A message followed by its own checksum has checksum zero (43_crc8.md R168, which the spec derives). -/
def Obligations.CrcResidueIsZero : Prop :=
  ∀ m : List Byte, crc8 (m ++ [crc8 m]) = 0

/-- The update is a bijection in either argument (43_crc8.md R170, which the spec derives). -/
def Obligations.CrcUpdateIsBijective : Prop :=
  (∀ b : Byte, Function.Bijective fun c => crc8Update c b) ∧ (∀ c : Byte, Function.Bijective fun b => crc8Update c b)

/-- A frame with one corrupted hashed byte, or with a corrupted checksum byte, is ABORTED and reported, never READY
(43_crc8.md R170, which the spec derives): the fields and body received hash as `pre ++ [x] ++ post`, the checksum
received is that of `pre ++ [y] ++ post`. For `FEED`, `BYTE_EOM`. -/
def Obligations.OneByteCorruptionAborts : Prop :=
  ∀ (s : State) (i : Instr) (b pre post : List Byte) (x y rx : Byte), paramsLegal s.params = true → s.state = .active →
    fedByte s.params i = some s.params.EOM → s.body = b ++ [rx] →
    [s.destLow, s.destHigh, s.src, s.msgType] ++ b = pre ++ x :: post →
    (x ≠ y ∧ rx = crc8 (pre ++ y :: post)) ∨ rx ≠ crc8 (pre ++ x :: post) →
    answers i s [.crcMismatch rx (crc8 (pre ++ x :: post))] 5 { s with state := .aborted, body := b }

/-- Published values of this CRC and the spec's own (43_crc8.md R163, R164, R165; the spec marks R164 as general
knowledge). -/
def Obligations.CrcKnownValues : Prop :=
  crc8 [] = 0x00 ∧ crc8 [0x01] = 0x5E ∧ crc8 [0x80] = 0x8C ∧ crc8 [0xFF] = 0x35 ∧ crc8 [0x01, 0x02, 0x03, 0x04] = 0xF4 ∧
  crc8 [0x31, 0x32, 0x33, 0x34, 0x35, 0x36, 0x37, 0x38, 0x39] = 0xA1 ∧
  crc8 [0x02, 0x1C, 0xB8, 0x01, 0x00, 0x00, 0x00] = 0xA2 ∧ crc8 [0x05, 0x05, 0xFE, 0x43, 0x10, 0x20, 0x30] = 0x7B

/-! ### The address matcher -/

/-- `TO_ME`: the wildcard on the low bound wins over "unassigned", which wins over the unsigned range inclusive at both
bounds (42_address.md R146 to R148; the spec's decision D12). -/
def Obligations.AddressedToMe : Prop :=
  ∀ s : State,
    (s.destLow = s.params.ALL → exec .toMe s = .next { s with outputs := s.outputs ++ [⟨[], 1⟩] }) ∧
    (s.destLow ≠ s.params.ALL → s.myAddress = 0 → exec .toMe s = .next { s with outputs := s.outputs ++ [⟨[], 0⟩] }) ∧
    (s.destLow ≠ s.params.ALL → s.myAddress ≠ 0 →
      exec .toMe s = .next { s with outputs := s.outputs ++
        [⟨[], if s.destLow.toNat ≤ s.myAddress.toNat ∧ s.myAddress.toNat ≤ s.destHigh.toNat then 1 else 0⟩] })

/-- `TO_MASTER`: its words, and that it asks whether the low bound equals the master address; neither the high bound nor
`myAddress` is read (42_address.md R149). -/
def Obligations.AddressedToMaster : Prop :=
  (∀ b : Byte, decodeCommand (cmdWord 0x8 0x09 b) = .ok .toMaster) ∧
  ∀ s : State,
    (s.destLow = s.params.MASTER → exec .toMaster s = .next { s with outputs := s.outputs ++ [⟨[], 1⟩] }) ∧
    (s.destLow ≠ s.params.MASTER → exec .toMaster s = .next { s with outputs := s.outputs ++ [⟨[], 0⟩] })

/-! ### SEND -/

/-- `SEND` without its two preconditions is a no-op that reports zero bytes; with both it completes, whatever else the
state holds, and a result of 0 identifies the no-op, because a send that completes reports at least 6 (44_transmit.md
R181, R182). -/
def Obligations.SendNeedsItsPreconditions : Prop :=
  (∀ s : State, ¬ ((s.state = .ready ∨ s.state = .active) ∧ s.myAddress ≠ 0) →
    exec .send s = .next { s with outputs := s.outputs ++ [⟨[], 0⟩] }) ∧
  (∀ s : State, (s.state = .ready ∨ s.state = .active) → s.myAddress ≠ 0 → s.flushDone = true →
    ∃ t evs n, exec .send s = .next t ∧ t.outputs = s.outputs ++ [⟨evs, n⟩] ∧ 6 ≤ n)

/-- What a `SEND` that completes puts on the bus: the direction line asserted before the first byte, the whole frame byte
by byte in order, the flush, the line released last; the source is the node's own address and the checksum covers it
(44_transmit.md R183, R184, R185, R186, R188, R194). -/
def Obligations.SendTransmitsTheFrame : Prop :=
  ∀ s : State, (s.state = .ready ∨ s.state = .active) → s.myAddress ≠ 0 → s.flushDone = true →
    let P := s.params
    let frame :=
      [P.SOM, s.destLow] ++ (if s.destLow ≠ s.destHigh then [P.SEP, s.destHigh] else []) ++
      (if s.myAddress ≠ P.MASTER then [s.myAddress] else []) ++ [P.EOH, s.msgType] ++ s.body ++
      [crc8 ([s.destLow, s.destHigh, s.myAddress, s.msgType] ++ s.body), P.EOM]
    ∃ t, exec .send s = .next t ∧ t.src = s.myAddress ∧ t.dir = .rx ∧
      t.outputs = s.outputs ++ [⟨[.dir .tx] ++ frame.map .tx ++ [.flush, .dir .rx], frame.length⟩]

/-- What a `SEND` that completes leaves behind: source, timestamp and line written, everything else kept (44_transmit.md
R192, R197, which are the spec's decisions D19, D16). -/
def Obligations.SendKeepsTheMessage : Prop :=
  ∀ s : State, (s.state = .ready ∨ s.state = .active) → s.myAddress ≠ 0 → s.flushDone = true →
    ∃ out, exec .send s = .next { s with src := s.myAddress, sentAt := s.now % 2 ^ s.params.TSW, dir := .rx,
                                         outputs := s.outputs ++ [out] }

/-- The byte count a completed `SEND` reports (44_transmit.md R196, which the spec derives and decides, D17), and its
bounds. -/
def Obligations.SendResultIsTheFrameLength : Prop :=
  ∀ s : State, (s.state = .ready ∨ s.state = .active) → s.myAddress ≠ 0 → s.flushDone = true → Inv s →
    ∃ t evs n, exec .send s = .next t ∧ t.outputs = s.outputs ++ [⟨evs, n⟩] ∧
      n = 6 + s.bodyLen + (if s.destLow ≠ s.destHigh then 2 else 0) + (if s.myAddress ≠ s.params.MASTER then 1 else 0) ∧
      6 ≤ n ∧ n ≤ s.params.C + 8

/-- A flush that never completes: `SEND` has no step, and what it emitted ends with the flush request, the line still
asserted (44_transmit.md R191, the spec's decision D18; the fault is the model's form of "stuck", log 12). -/
def Obligations.SendHangsWithoutFlush : Prop :=
  ∀ s : State, (s.state = .ready ∨ s.state = .active) → s.myAddress ≠ 0 → s.flushDone = false →
    exec .send s = .fault (.flushNeverCompleted
      ([.dir .tx] ++ (compose { s with src := s.myAddress }).map .tx ++ [.flush]))

/-- Every operation that answers appends one output, and its events are free of direction and transmit events or are one
whole window with at least six bytes, which only `SEND` has (44_transmit.md R195, which the spec derives). -/
def Obligations.DirectionWindow : Prop :=
  ∀ (i : Instr) (s t : State), exec i s = .next t →
    ∃ evs n, t.outputs = s.outputs ++ [⟨evs, n⟩] ∧
      ((∀ e ∈ evs, isBusEvent e = false) ∨
       (i = .send ∧ ∃ frame : List Byte, 6 ≤ frame.length ∧
          evs = [.dir .tx] ++ frame.map .tx ++ [.flush, .dir .rx]))

/-- The round trip (44_transmit.md R200, which the spec derives): under its four conditions the frame a `SEND` composes,
fed to a receiver with the same parameters in whatever state, ends in READY with the same destination, type and body and
the sender's address as the source, and the receiver emits no event. -/
def Obligations.RoundTrip : Prop :=
  ∀ s r : State,
    let P := s.params
    let m := { s with src := s.myAddress }
    let rangeBytes := if s.destLow ≠ s.destHigh then [s.destHigh] else []
    let srcBytes := if s.myAddress ≠ P.MASTER then [s.myAddress] else []
    paramsLegal P = true → r.params = P →
    (∀ x ∈ [s.destLow] ++ rangeBytes ++ srcBytes ++ [s.msgType] ++ s.body ++ [crc8Msg m], x ≠ P.SOM ∧ x ≠ P.EOM) →
    (∀ x ∈ [s.destLow] ++ rangeBytes ++ srcBytes, x ≠ P.EOH) →
    ¬ (s.destLow = s.destHigh ∧ s.myAddress = P.SEP) →
    s.bodyLen ≤ P.C - 2 →
    let t := feedSeq (compose m) r
    t.state = .ready ∧ t.destLow = s.destLow ∧ t.destHigh = s.destHigh ∧ t.src = s.myAddress ∧ t.msgType = s.msgType ∧
    t.body = s.body ∧ t.isNew = true ∧
    ∃ outs : List Output, t.outputs = r.outputs ++ outs ∧ ∀ o ∈ outs, o.events = []

/-! ### The other host operations -/

/-- `START t` with a type: the message reset, then ACTIVE with the type in place; `START 0` leaves IDLE (45_host_ops.md
R211, the spec's decision D15). -/
def Obligations.StartBeginsAMessage : Prop :=
  ∀ (s : State) (t : Byte),
    (t ≠ 0 → answers (.start t) s [] 2 { cleared .active s with msgType := t, typeSeen := true }) ∧
    (t = 0 → answers (.start t) s [] 0 (cleared .idle s))

/-- `SET_ADDR` stores any value in any state and touches nothing else (45_host_ops.md R212, the spec's decision D24). -/
def Obligations.SetAddrStoresTheAddress : Prop :=
  ∀ (s : State) (addr : Byte),
    exec (.setAddr addr) s = .next { s with myAddress := addr, outputs := s.outputs ++ [⟨[], 0⟩] }

/-- `SET_DEST` writes both bounds in ACTIVE and READY and nothing in any other state (45_host_ops.md R213, the spec's
decisions D15, D27). -/
def Obligations.SetDestOnlyBeforeASend : Prop :=
  ∀ (s : State) (lo hi : Byte),
    ((s.state = .active ∨ s.state = .ready) →
      exec (.setDest lo hi) s = .next { s with destLow := lo, destHigh := hi, outputs := s.outputs ++ [⟨[], 1⟩] }) ∧
    (s.state ≠ .active → s.state ≠ .ready →
      exec (.setDest lo hi) s = .next { s with outputs := s.outputs ++ [⟨[], 0⟩] })

/-- `APPEND`: the bounded append in ACTIVE with the type seen, uninterpreted; nothing otherwise (45_host_ops.md R215, the
spec's decision D15). The byte goes to index `bodyLen`, the terminator after it, and every byte below reads as before. -/
def Obligations.AppendExtendsTheBody : Prop :=
  ∀ (s : State) (x : Byte),
    (s.state = .active → s.typeSeen = true → s.bodyLen < s.params.C - 1 →
      answers (.append x) s [] 2 { s with body := s.body ++ [x] } ∧
      ∀ t, exec (.append x) s = .next t → t.readBody s.bodyLen = x ∧ t.readBody (s.bodyLen + 1) = 0 ∧
        ∀ j, j < s.bodyLen → t.readBody j = s.readBody j) ∧
    (s.state = .active → s.typeSeen = true → s.params.C - 1 ≤ s.bodyLen →
      exec (.append x) s = .next { s with state := .overflow, outputs := s.outputs ++ [⟨[], 4⟩] }) ∧
    ((s.state ≠ .active ∨ s.typeSeen = false) →
      exec (.append x) s = .next { s with outputs := s.outputs ++ [⟨[], stateCode s.state⟩] })

/-- `CLEAR_NEW` clears the flag and touches nothing else (45_host_ops.md R216, the spec's decision D13). -/
def Obligations.ClearNewClearsTheFlag : Prop :=
  ∀ s : State, exec .clearNew s = .next { s with isNew := false, outputs := s.outputs ++ [⟨[], 0⟩] }

/-! ### Queries -/

/-- `GET_STATE` returns the state code and every query is pure, in any state (45_host_ops.md R218); `GET_TYPE`, `GET_SRC`,
`GET_DEST_LO`, `GET_DEST_HI`, `GET_BODYLEN` return their fields (R219 to R223). The first conjunct is the encoding of
the two queries whose rules are cited, R218 and R221. -/
def Obligations.QueriesReturnTheirFields : Prop :=
  (∀ b : Byte, decodeCommand (cmdWord 0x8 0x00 b) = .ok .getState ∧
    decodeCommand (cmdWord 0x8 0x03 b) = .ok .getDestLo) ∧
  (∀ s : State,
    let ans (n : Nat) : Host.Outcome State Fault Refusal := .next { s with outputs := s.outputs ++ [⟨[], n⟩] }
    exec .getState s = ans (stateCode s.state) ∧ exec .getType s = ans s.msgType.toNat ∧
    exec .getSrc s = ans s.src.toNat ∧ exec .getDestLo s = ans s.destLow.toNat ∧
    exec .getDestHi s = ans s.destHigh.toNat ∧ exec .getBodylen s = ans s.bodyLen) ∧
  (∀ (i : Instr) (s : State), isQuery i = true → ∃ n, exec i s = .next { s with outputs := s.outputs ++ [⟨[], n⟩] })

/-- `GET_ISNEW`, `GET_SENTAT`, `GET_DIR`, `GET_MYADDR` return their fields and clear nothing (45_host_ops.md R225 to R228,
the spec's decisions D13, D19, D4); the line reads 0 wherever the invariants hold. -/
def Obligations.StatusQueriesReturnTheirFields : Prop :=
  ∀ s : State,
    let ans (n : Nat) : Host.Outcome State Fault Refusal := .next { s with outputs := s.outputs ++ [⟨[], n⟩] }
    exec .getIsnew s = ans (if s.isNew then 1 else 0) ∧ exec .getSentat s = ans s.sentAt ∧
    exec .getMyaddr s = ans s.myAddress.toNat ∧
    exec .getDir s = ans (if s.dir = .tx then 1 else 0) ∧ (Inv s → exec .getDir s = ans 0)

/-- `GET_BODY`: the logical byte below `bodyLen`, the terminator at it, and above it some byte of which nothing is said
(45_host_ops.md R224, the spec's decision D23). -/
def Obligations.GetBodyReadsTheBuffer : Prop :=
  ∀ (s : State) (idx : Byte),
    let ans (n : Nat) : Host.Outcome State Fault Refusal := .next { s with outputs := s.outputs ++ [⟨[], n⟩] }
    (∀ b, s.body[idx.toNat]? = some b → exec (.getBody idx) s = ans b.toNat) ∧
    (idx.toNat = s.bodyLen → exec (.getBody idx) s = ans 0) ∧
    (s.bodyLen < idx.toNat → ∃ b : Byte, exec (.getBody idx) s = ans b.toNat)

/-- A query repeated returns the same result until another operation intervenes (20_memory.md section 2), the body bytes
of which nothing is specified among them. -/
def Obligations.RepeatedQueryAgrees : Prop :=
  ∀ (i j : Instr) (s t : State), isQuery i = true → isQuery j = true → exec j s = .next t →
    ∃ n u v, exec i s = .next u ∧ exec i t = .next v ∧
      u.outputs = s.outputs ++ [⟨[], n⟩] ∧ v.outputs = t.outputs ++ [⟨[], n⟩]

/-! ### The whole machine -/

/-- No operation is refused, and every operation answers with a next state when the environment completes the flush (the
hardware has no exception, 60_exceptions.md section 1; no access can fault, 20_memory.md section 2). -/
def Obligations.EveryOperationAnswers : Prop :=
  ∀ (i : Instr) (s : State),
    (s.flushDone = true → ∃ t, exec i s = .next t) ∧
    (∀ r, exec i s ≠ .refused r) ∧
    (∀ f, exec i s = .fault f → i = .send ∧ s.flushDone = false)

/-- Every step keeps the invariants of 10_state.md R36, from every state that meets them. -/
def Obligations.StepKeepsInvariants : Prop :=
  ∀ s t : State, Inv s → step s = .next t → Inv t

/-- The power-on state of every legal parameter record meets the invariants, and so does the reset machine. -/
def Obligations.PowerOnMeetsInvariants : Prop :=
  (∀ P : Params, paramsLegal P = true → Inv (State.powerOn P)) ∧ Inv State.reset

/-- The `state` register moves only along the edges of the transition table (40_framing.md R119, which the spec derives;
10_state.md R22). -/
def Obligations.StateMovesAlongTheTable : Prop :=
  ∀ (i : Instr) (s t : State), exec i s = .next t → t.state ∈ edges s.params s.state i

/-- The only way back to IDLE, and the only way back to HEADER, is the message reset: whatever leaves another state for
one of them leaves every message field cleared (10_state.md R22, 90_conflicts.md C7). -/
def Obligations.OnlyTheMessageResetGoesBack : Prop :=
  ∀ (i : Instr) (s t : State), exec i s = .next t → t.state ≠ s.state → (t.state = .idle ∨ t.state = .header) →
    sameEngine t (cleared t.state s)

/-- Who writes what, field by field of the table of 10_state.md section 6 (the `state` row is StateMovesAlongTheTable).
The parameter record never changes. `resetsMessage s i` is the message reset's callers: `RESET`, `START`, a
start-of-message byte, an end-of-message byte in IDLE or HEADER; `runsParser s i` is an end-of-header byte in HEADER. What
sets `isNew` is the spec's decision D13. -/
def Obligations.OnlyTheNamedWritersWrite : Prop :=
  ∀ (i : Instr) (s t : State), exec i s = .next t →
    t.params = s.params ∧
    (t.msgType ≠ s.msgType →
      (resetsMessage s i ∧ (t.msgType = 0 ∨ i = .start t.msgType)) ∨
      (s.state = .active ∧ s.typeSeen = false ∧ fedByte s.params i = some t.msgType)) ∧
    (t.typeSeen ≠ s.typeSeen →
      (resetsMessage s i ∧ (t.typeSeen = false ∨ ∃ x, x ≠ 0 ∧ i = .start x)) ∨
      (s.state = .active ∧ t.typeSeen = true ∧ ∃ x, fedByte s.params i = some x)) ∧
    (t.src ≠ s.src →
      (resetsMessage s i ∧ t.src = 0) ∨ runsParser s i ∨ (i = .send ∧ t.src = s.myAddress)) ∧
    (t.destLow ≠ s.destLow ∨ t.destHigh ≠ s.destHigh →
      (resetsMessage s i ∧ t.destLow = 0 ∧ t.destHigh = 0) ∨ runsParser s i ∨ i = .setDest t.destLow t.destHigh) ∧
    (t.body ≠ s.body →
      ((resetsMessage s i ∨ runsParser s i) ∧ t.body = []) ∨
      (s.state = .active ∧ fedByte s.params i = some s.params.EOM ∧ t.body = s.body.dropLast) ∨
      (s.state = .active ∧ ∃ x, (fedByte s.params i = some x ∨ i = .append x) ∧ t.body = s.body ++ [x])) ∧
    (t.hdr ≠ s.hdr ∨ t.hdrLen ≠ s.hdrLen →
      (resetsMessage s i ∧ t.hdr = [] ∧ t.hdrLen = 0) ∨
      (s.state = .header ∧ t.hdrLen = s.hdrLen + 1 ∧
        ∃ x, fedByte s.params i = some x ∧ (t.hdr = s.hdr ++ [x] ∨ t.hdr = s.hdr))) ∧
    (t.myAddress ≠ s.myAddress → i = .setAddr t.myAddress) ∧
    (t.sentAt ≠ s.sentAt → i = .send ∧ t.sentAt = s.now % 2 ^ s.params.TSW) ∧
    (t.dir ≠ s.dir → i = .send ∧ t.dir = .rx) ∧
    (s.isNew = true → t.isNew = false → i = .clearNew) ∧
    (s.isNew = false → t.isNew = true →
      resetsMessage s i ∨ (s.state = .active ∧ t.state = .ready ∧ fedByte s.params i = some s.params.EOM))

/-- Bytes of the two buffers: an operation that is not a received byte, `RESET`, `START` or `APPEND` leaves every index of
the body reading as before, and the header buffer as it was (20_memory.md sections 1 and 2: who writes the buffers). The
spec says so of the indices up to `bodyLen`; that the unspecified bytes above it read as before across an operation that
is no query is the model's choice, by its counter of buffer writes (log 9): the spec lets them be any value. Covers `SET_ADDR`, `SET_DEST`, `SEND`, `CLEAR_NEW` and the thirteen queries. -/
def Obligations.BuffersHaveNoOtherWriter : Prop :=
  ∀ (i : Instr) (s t : State), exec i s = .next t → fedByte s.params i = none → i ≠ .reset → (∀ x, i ≠ .start x) →
    (∀ x, i ≠ .append x) →
    (∀ j, t.readBody j = s.readBody j) ∧ t.bodyLen = s.bodyLen ∧ t.hdr = s.hdr ∧ t.hdrLen = s.hdrLen

/-- Every result fits the width that 30_encoding.md R87 gives a result (the spec's decisions D4, D17). -/
def Obligations.ResultFitsItsWidth : Prop :=
  ∀ (i : Instr) (s t : State), Inv s → exec i s = .next t →
    ∃ evs n, t.outputs = s.outputs ++ [⟨evs, n⟩] ∧ n < 2 ^ resultWidth s.params
end

