-- ==== Sys2Proof/Laws/Crc.lean ====
section
/-! SUPPORT. Laws of the CRC engine (43_crc8.md section 3): it reads its message byte by byte, its step is linear and
injective. -/

namespace Sys2Proof.Machine

@[simp] theorem crc8_nil : crc8 [] = 0 := rfl

/-- The last byte of a message is the last one hashed. -/
theorem crc8_concat (m : List Byte) (b : Byte) : crc8 (m ++ [b]) = crc8Update (crc8 m) b := by
  simp [crc8, List.foldl_append]

/-- The update depends on the two bytes through their xor alone (43_crc8.md R162). -/
theorem crc8Update_eq (c b : Byte) : crc8Update c b = crcShifts 8 (c ^^^ b) := rfl

/-- Zero is a fixed point of every number of steps (43_crc8.md R169). -/
@[simp] theorem crcShifts_zero (n : Nat) : crcShifts n 0 = 0 := by
  induction n with
  | zero => rfl
  | succ n ih =>
    have h : crcShift 0 = 0 := by decide
    rw [crcShifts, h, ih]

/-- One step is injective: bit 7 of the result is the bit shifted out, because 0x8C has bit 7 set (43_crc8.md R161). -/
theorem crcShift_injective : Function.Injective crcShift := by
  intro v w h
  have h7 (u : Byte) : (crcShift u).getLsbD 7 = u.getLsbD 0 := by
    cases hu : u.getLsbD 0 <;> simp only [crcShift, hu, if_true, Bool.false_eq_true, if_false] <;>
      simp
  have h0 : v.getLsbD 0 = w.getLsbD 0 := by rw [← h7 v, ← h7 w, h]
  have hs : v >>> 1 = w >>> 1 := by
    unfold crcShift at h
    rw [h0] at h
    split at h
    · simpa [BitVec.xor_assoc] using congrArg (· ^^^ 0x8C#8) h
    · exact h
  apply BitVec.eq_of_getLsbD_eq
  intro i hi
  cases i with
  | zero => exact h0
  | succ i =>
    have := congrArg (fun x : Byte => x.getLsbD i) hs
    simpa [BitVec.getLsbD_ushiftRight, Nat.add_comm] using this

theorem crcShifts_injective (n : Nat) : Function.Injective (crcShifts n) := by
  induction n with
  | zero => intro v w h; exact h
  | succ n ih => intro v w h; exact crcShift_injective (ih h)

end Sys2Proof.Machine
end

