-- ==== Sys2Proof/Laws/Decode.lean ====
section
/-! SUPPORT. The fields of a command word put together and taken apart again. -/

namespace Sys2Proof

@[simp] theorem cwOp_cmdWord (op : BitVec 4) (a b : Byte) : cwOp (cmdWord op a b) = op := by
  apply BitVec.eq_of_getLsbD_eq
  intro i hi
  simp only [cwOp, cmdWord, BitVec.getLsbD_extractLsb', BitVec.getLsbD_append]
  have h1 : ¬ (16 + i < 8) := by omega
  have h2 : ¬ (16 + i - 8 < 8) := by omega
  have h3 : 16 + i - 8 - 8 = i := by omega
  simp [h1, h2, h3, hi]

@[simp] theorem cwA_cmdWord (op : BitVec 4) (a b : Byte) : cwA (cmdWord op a b) = a := by
  apply BitVec.eq_of_getLsbD_eq
  intro i hi
  simp only [cwA, cmdWord, BitVec.getLsbD_extractLsb', BitVec.getLsbD_append]
  have h1 : ¬ (8 + i < 8) := by omega
  have h2 : 8 + i - 8 = i := by omega
  simp [h1, h2, hi]

@[simp] theorem cwB_cmdWord (op : BitVec 4) (a b : Byte) : cwB (cmdWord op a b) = b := by
  apply BitVec.eq_of_getLsbD_eq
  intro i hi
  simp only [cwB, cmdWord, BitVec.getLsbD_extractLsb', BitVec.getLsbD_append]
  simp [hi]

/-- Every command word is the word of its three fields. -/
theorem cmdWord_fields (cw : CmdWord) : cmdWord (cwOp cw) (cwA cw) (cwB cw) = cw := by
  apply BitVec.eq_of_getLsbD_eq
  intro i hi
  simp only [cwOp, cwA, cwB, cmdWord, BitVec.getLsbD_append, BitVec.getLsbD_extractLsb']
  by_cases h1 : i < 8
  · simp [h1]
  · by_cases h2 : i - 8 < 8
    · have h3 : 8 + (i - 8) = i := by omega
      simp [h1, h2, h3]
    · have h3 : 16 + (i - 8 - 8) = i := by omega
      have h4 : i - 8 - 8 < 4 := by omega
      simp [h1, h2, h3, h4]

/-- Decoding a word is decoding its fields. -/
@[simp] theorem decodeCommand_cmdWord (op : BitVec 4) (a b : Byte) :
    decodeCommand (cmdWord op a b) = decodeFields op a b := by
  simp [decodeCommand]

/-- Two words agree exactly when their fields do. -/
theorem cmdWord_inj {op op' : BitVec 4} {a a' b b' : Byte} :
    cmdWord op a b = cmdWord op' a' b' ↔ op = op' ∧ a = a' ∧ b = b' := by
  constructor
  · intro h
    exact ⟨by simpa using congrArg cwOp h, by simpa using congrArg cwA h, by simpa using congrArg cwB h⟩
  · rintro ⟨rfl, rfl, rfl⟩
    rfl

/-- A mask acts on each field by itself. -/
theorem cmdWord_and (op op' : BitVec 4) (a a' b b' : Byte) :
    cmdWord op a b &&& cmdWord op' a' b' = cmdWord (op &&& op') (a &&& a') (b &&& b') := by
  apply BitVec.eq_of_getLsbD_eq
  intro i hi
  simp only [cmdWord, BitVec.getLsbD_and, BitVec.getLsbD_append]
  split <;> [skip; split] <;> rfl

/-- The mask of a row without a selector keeps the operation code (opcode_table.json). -/
theorem cmdWord_and_opMask (op : BitVec 4) (a b : Byte) : cmdWord op a b &&& 0xF0000#20 = cmdWord op 0 0 := by
  rw [show 0xF0000#20 = cmdWord (BitVec.allOnes 4) 0 0 by decide, cmdWord_and, BitVec.and_allOnes]
  simp only [BitVec.ofNat_eq_ofNat, BitVec.and_zero]

/-- The mask of a query row keeps the operation code and the selector (opcode_table.json). -/
theorem cmdWord_and_selectorMask (op : BitVec 4) (a b : Byte) : cmdWord op a b &&& 0xFFF00#20 = cmdWord op a 0 := by
  rw [show 0xFFF00#20 = cmdWord (BitVec.allOnes 4) (BitVec.allOnes 8) 0 by decide, cmdWord_and, BitVec.and_allOnes,
    BitVec.and_allOnes]
  simp only [BitVec.ofNat_eq_ofNat, BitVec.and_zero]

end Sys2Proof
end

