-- ==== Sys2Proof/Laws/State.lean ====
section
/-! SUPPORT. One lemma per field per update of the state, each true by rfl, so that no later proof unfolds a record update. -/

namespace Sys2Proof.Machine

/-! ### `setNew` -/

@[simp] theorem setNew_params (s : State) : (setNew s).params = s.params := rfl
@[simp] theorem setNew_state (s : State) : (setNew s).state = s.state := rfl
@[simp] theorem setNew_msgType (s : State) : (setNew s).msgType = s.msgType := rfl
@[simp] theorem setNew_typeSeen (s : State) : (setNew s).typeSeen = s.typeSeen := rfl
@[simp] theorem setNew_src (s : State) : (setNew s).src = s.src := rfl
@[simp] theorem setNew_destLow (s : State) : (setNew s).destLow = s.destLow := rfl
@[simp] theorem setNew_destHigh (s : State) : (setNew s).destHigh = s.destHigh := rfl
@[simp] theorem setNew_body (s : State) : (setNew s).body = s.body := rfl
@[simp] theorem setNew_hdr (s : State) : (setNew s).hdr = s.hdr := rfl
@[simp] theorem setNew_hdrLen (s : State) : (setNew s).hdrLen = s.hdrLen := rfl
@[simp] theorem setNew_myAddress (s : State) : (setNew s).myAddress = s.myAddress := rfl
@[simp] theorem setNew_sentAt (s : State) : (setNew s).sentAt = s.sentAt := rfl
@[simp] theorem setNew_isNew (s : State) : (setNew s).isNew = true := rfl
@[simp] theorem setNew_dir (s : State) : (setNew s).dir = s.dir := rfl
@[simp] theorem setNew_inputs (s : State) : (setNew s).inputs = s.inputs := rfl
@[simp] theorem setNew_now (s : State) : (setNew s).now = s.now := rfl
@[simp] theorem setNew_flushDone (s : State) : (setNew s).flushDone = s.flushDone := rfl
@[simp] theorem setNew_outputs (s : State) : (setNew s).outputs = s.outputs := rfl
@[simp] theorem setNew_bufferWrites (s : State) : (setNew s).bufferWrites = s.bufferWrites := rfl

/-! ### `clearNew` -/

@[simp] theorem clearNew_params (s : State) : (clearNew s).params = s.params := rfl
@[simp] theorem clearNew_state (s : State) : (clearNew s).state = s.state := rfl
@[simp] theorem clearNew_msgType (s : State) : (clearNew s).msgType = s.msgType := rfl
@[simp] theorem clearNew_typeSeen (s : State) : (clearNew s).typeSeen = s.typeSeen := rfl
@[simp] theorem clearNew_src (s : State) : (clearNew s).src = s.src := rfl
@[simp] theorem clearNew_destLow (s : State) : (clearNew s).destLow = s.destLow := rfl
@[simp] theorem clearNew_destHigh (s : State) : (clearNew s).destHigh = s.destHigh := rfl
@[simp] theorem clearNew_body (s : State) : (clearNew s).body = s.body := rfl
@[simp] theorem clearNew_hdr (s : State) : (clearNew s).hdr = s.hdr := rfl
@[simp] theorem clearNew_hdrLen (s : State) : (clearNew s).hdrLen = s.hdrLen := rfl
@[simp] theorem clearNew_myAddress (s : State) : (clearNew s).myAddress = s.myAddress := rfl
@[simp] theorem clearNew_sentAt (s : State) : (clearNew s).sentAt = s.sentAt := rfl
@[simp] theorem clearNew_isNew (s : State) : (clearNew s).isNew = false := rfl
@[simp] theorem clearNew_dir (s : State) : (clearNew s).dir = s.dir := rfl
@[simp] theorem clearNew_inputs (s : State) : (clearNew s).inputs = s.inputs := rfl
@[simp] theorem clearNew_now (s : State) : (clearNew s).now = s.now := rfl
@[simp] theorem clearNew_flushDone (s : State) : (clearNew s).flushDone = s.flushDone := rfl
@[simp] theorem clearNew_outputs (s : State) : (clearNew s).outputs = s.outputs := rfl
@[simp] theorem clearNew_bufferWrites (s : State) : (clearNew s).bufferWrites = s.bufferWrites := rfl

/-! ### `noteWrite` -/

@[simp] theorem noteWrite_params (s : State) : (noteWrite s).params = s.params := rfl
@[simp] theorem noteWrite_state (s : State) : (noteWrite s).state = s.state := rfl
@[simp] theorem noteWrite_msgType (s : State) : (noteWrite s).msgType = s.msgType := rfl
@[simp] theorem noteWrite_typeSeen (s : State) : (noteWrite s).typeSeen = s.typeSeen := rfl
@[simp] theorem noteWrite_src (s : State) : (noteWrite s).src = s.src := rfl
@[simp] theorem noteWrite_destLow (s : State) : (noteWrite s).destLow = s.destLow := rfl
@[simp] theorem noteWrite_destHigh (s : State) : (noteWrite s).destHigh = s.destHigh := rfl
@[simp] theorem noteWrite_body (s : State) : (noteWrite s).body = s.body := rfl
@[simp] theorem noteWrite_hdr (s : State) : (noteWrite s).hdr = s.hdr := rfl
@[simp] theorem noteWrite_hdrLen (s : State) : (noteWrite s).hdrLen = s.hdrLen := rfl
@[simp] theorem noteWrite_myAddress (s : State) : (noteWrite s).myAddress = s.myAddress := rfl
@[simp] theorem noteWrite_sentAt (s : State) : (noteWrite s).sentAt = s.sentAt := rfl
@[simp] theorem noteWrite_isNew (s : State) : (noteWrite s).isNew = s.isNew := rfl
@[simp] theorem noteWrite_dir (s : State) : (noteWrite s).dir = s.dir := rfl
@[simp] theorem noteWrite_inputs (s : State) : (noteWrite s).inputs = s.inputs := rfl
@[simp] theorem noteWrite_now (s : State) : (noteWrite s).now = s.now := rfl
@[simp] theorem noteWrite_flushDone (s : State) : (noteWrite s).flushDone = s.flushDone := rfl
@[simp] theorem noteWrite_outputs (s : State) : (noteWrite s).outputs = s.outputs := rfl
@[simp] theorem noteWrite_bufferWrites (s : State) : (noteWrite s).bufferWrites = s.bufferWrites + 1 := rfl

/-! ### `bodyClear` -/

@[simp] theorem bodyClear_params (s : State) : (bodyClear s).params = s.params := rfl
@[simp] theorem bodyClear_state (s : State) : (bodyClear s).state = s.state := rfl
@[simp] theorem bodyClear_msgType (s : State) : (bodyClear s).msgType = s.msgType := rfl
@[simp] theorem bodyClear_typeSeen (s : State) : (bodyClear s).typeSeen = s.typeSeen := rfl
@[simp] theorem bodyClear_src (s : State) : (bodyClear s).src = s.src := rfl
@[simp] theorem bodyClear_destLow (s : State) : (bodyClear s).destLow = s.destLow := rfl
@[simp] theorem bodyClear_destHigh (s : State) : (bodyClear s).destHigh = s.destHigh := rfl
@[simp] theorem bodyClear_body (s : State) : (bodyClear s).body = [] := rfl
@[simp] theorem bodyClear_hdr (s : State) : (bodyClear s).hdr = s.hdr := rfl
@[simp] theorem bodyClear_hdrLen (s : State) : (bodyClear s).hdrLen = s.hdrLen := rfl
@[simp] theorem bodyClear_myAddress (s : State) : (bodyClear s).myAddress = s.myAddress := rfl
@[simp] theorem bodyClear_sentAt (s : State) : (bodyClear s).sentAt = s.sentAt := rfl
@[simp] theorem bodyClear_isNew (s : State) : (bodyClear s).isNew = s.isNew := rfl
@[simp] theorem bodyClear_dir (s : State) : (bodyClear s).dir = s.dir := rfl
@[simp] theorem bodyClear_inputs (s : State) : (bodyClear s).inputs = s.inputs := rfl
@[simp] theorem bodyClear_now (s : State) : (bodyClear s).now = s.now := rfl
@[simp] theorem bodyClear_flushDone (s : State) : (bodyClear s).flushDone = s.flushDone := rfl
@[simp] theorem bodyClear_outputs (s : State) : (bodyClear s).outputs = s.outputs := rfl
@[simp] theorem bodyClear_bufferWrites (s : State) : (bodyClear s).bufferWrites = s.bufferWrites + 1 := rfl

/-! ### `enterError` -/

@[simp] theorem enterError_params (e : EngineState) (s : State) : (enterError e s).params = s.params := rfl
@[simp] theorem enterError_state (e : EngineState) (s : State) : (enterError e s).state = e := rfl
@[simp] theorem enterError_msgType (e : EngineState) (s : State) : (enterError e s).msgType = s.msgType := rfl
@[simp] theorem enterError_typeSeen (e : EngineState) (s : State) : (enterError e s).typeSeen = s.typeSeen := rfl
@[simp] theorem enterError_src (e : EngineState) (s : State) : (enterError e s).src = s.src := rfl
@[simp] theorem enterError_destLow (e : EngineState) (s : State) : (enterError e s).destLow = s.destLow := rfl
@[simp] theorem enterError_destHigh (e : EngineState) (s : State) : (enterError e s).destHigh = s.destHigh := rfl
@[simp] theorem enterError_body (e : EngineState) (s : State) : (enterError e s).body = s.body := rfl
@[simp] theorem enterError_hdr (e : EngineState) (s : State) : (enterError e s).hdr = s.hdr := rfl
@[simp] theorem enterError_hdrLen (e : EngineState) (s : State) : (enterError e s).hdrLen = s.hdrLen := rfl
@[simp] theorem enterError_myAddress (e : EngineState) (s : State) : (enterError e s).myAddress = s.myAddress := rfl
@[simp] theorem enterError_sentAt (e : EngineState) (s : State) : (enterError e s).sentAt = s.sentAt := rfl
@[simp] theorem enterError_isNew (e : EngineState) (s : State) : (enterError e s).isNew = s.isNew := rfl
@[simp] theorem enterError_dir (e : EngineState) (s : State) : (enterError e s).dir = s.dir := rfl
@[simp] theorem enterError_inputs (e : EngineState) (s : State) : (enterError e s).inputs = s.inputs := rfl
@[simp] theorem enterError_now (e : EngineState) (s : State) : (enterError e s).now = s.now := rfl
@[simp] theorem enterError_flushDone (e : EngineState) (s : State) : (enterError e s).flushDone = s.flushDone := rfl
@[simp] theorem enterError_outputs (e : EngineState) (s : State) : (enterError e s).outputs = s.outputs := rfl
@[simp] theorem enterError_bufferWrites (e : EngineState) (s : State) : (enterError e s).bufferWrites = s.bufferWrites := rfl

/-! ### `respond` -/

@[simp] theorem respond_params (evs : List Event) (res : Nat) (s : State) : (respond evs res s).params = s.params := rfl
@[simp] theorem respond_state (evs : List Event) (res : Nat) (s : State) : (respond evs res s).state = s.state := rfl
@[simp] theorem respond_msgType (evs : List Event) (res : Nat) (s : State) : (respond evs res s).msgType = s.msgType := rfl
@[simp] theorem respond_typeSeen (evs : List Event) (res : Nat) (s : State) : (respond evs res s).typeSeen = s.typeSeen := rfl
@[simp] theorem respond_src (evs : List Event) (res : Nat) (s : State) : (respond evs res s).src = s.src := rfl
@[simp] theorem respond_destLow (evs : List Event) (res : Nat) (s : State) : (respond evs res s).destLow = s.destLow := rfl
@[simp] theorem respond_destHigh (evs : List Event) (res : Nat) (s : State) : (respond evs res s).destHigh = s.destHigh := rfl
@[simp] theorem respond_body (evs : List Event) (res : Nat) (s : State) : (respond evs res s).body = s.body := rfl
@[simp] theorem respond_hdr (evs : List Event) (res : Nat) (s : State) : (respond evs res s).hdr = s.hdr := rfl
@[simp] theorem respond_hdrLen (evs : List Event) (res : Nat) (s : State) : (respond evs res s).hdrLen = s.hdrLen := rfl
@[simp] theorem respond_myAddress (evs : List Event) (res : Nat) (s : State) : (respond evs res s).myAddress = s.myAddress := rfl
@[simp] theorem respond_sentAt (evs : List Event) (res : Nat) (s : State) : (respond evs res s).sentAt = s.sentAt := rfl
@[simp] theorem respond_isNew (evs : List Event) (res : Nat) (s : State) : (respond evs res s).isNew = s.isNew := rfl
@[simp] theorem respond_dir (evs : List Event) (res : Nat) (s : State) : (respond evs res s).dir = s.dir := rfl
@[simp] theorem respond_inputs (evs : List Event) (res : Nat) (s : State) : (respond evs res s).inputs = s.inputs := rfl
@[simp] theorem respond_now (evs : List Event) (res : Nat) (s : State) : (respond evs res s).now = s.now := rfl
@[simp] theorem respond_flushDone (evs : List Event) (res : Nat) (s : State) : (respond evs res s).flushDone = s.flushDone := rfl
@[simp] theorem respond_outputs (evs : List Event) (res : Nat) (s : State) : (respond evs res s).outputs = s.outputs ++ [⟨evs, res⟩] := rfl
@[simp] theorem respond_bufferWrites (evs : List Event) (res : Nat) (s : State) : (respond evs res s).bufferWrites = s.bufferWrites := rfl

/-! ### `feedType` -/

@[simp] theorem feedType_params (x : Byte) (s : State) : (feedType x s).params = s.params := rfl
@[simp] theorem feedType_state (x : Byte) (s : State) : (feedType x s).state = s.state := rfl
@[simp] theorem feedType_msgType (x : Byte) (s : State) : (feedType x s).msgType = x := rfl
@[simp] theorem feedType_typeSeen (x : Byte) (s : State) : (feedType x s).typeSeen = true := rfl
@[simp] theorem feedType_src (x : Byte) (s : State) : (feedType x s).src = s.src := rfl
@[simp] theorem feedType_destLow (x : Byte) (s : State) : (feedType x s).destLow = s.destLow := rfl
@[simp] theorem feedType_destHigh (x : Byte) (s : State) : (feedType x s).destHigh = s.destHigh := rfl
@[simp] theorem feedType_body (x : Byte) (s : State) : (feedType x s).body = s.body := rfl
@[simp] theorem feedType_hdr (x : Byte) (s : State) : (feedType x s).hdr = s.hdr := rfl
@[simp] theorem feedType_hdrLen (x : Byte) (s : State) : (feedType x s).hdrLen = s.hdrLen := rfl
@[simp] theorem feedType_myAddress (x : Byte) (s : State) : (feedType x s).myAddress = s.myAddress := rfl
@[simp] theorem feedType_sentAt (x : Byte) (s : State) : (feedType x s).sentAt = s.sentAt := rfl
@[simp] theorem feedType_isNew (x : Byte) (s : State) : (feedType x s).isNew = s.isNew := rfl
@[simp] theorem feedType_dir (x : Byte) (s : State) : (feedType x s).dir = s.dir := rfl
@[simp] theorem feedType_inputs (x : Byte) (s : State) : (feedType x s).inputs = s.inputs := rfl
@[simp] theorem feedType_now (x : Byte) (s : State) : (feedType x s).now = s.now := rfl
@[simp] theorem feedType_flushDone (x : Byte) (s : State) : (feedType x s).flushDone = s.flushDone := rfl
@[simp] theorem feedType_outputs (x : Byte) (s : State) : (feedType x s).outputs = s.outputs := rfl
@[simp] theorem feedType_bufferWrites (x : Byte) (s : State) : (feedType x s).bufferWrites = s.bufferWrites := rfl

/-! ### `msgReset` -/

@[simp] theorem msgReset_params (s : State) : (msgReset s).params = s.params := rfl
@[simp] theorem msgReset_state (s : State) : (msgReset s).state = .idle := rfl
@[simp] theorem msgReset_msgType (s : State) : (msgReset s).msgType = 0 := rfl
@[simp] theorem msgReset_typeSeen (s : State) : (msgReset s).typeSeen = false := rfl
@[simp] theorem msgReset_src (s : State) : (msgReset s).src = 0 := rfl
@[simp] theorem msgReset_destLow (s : State) : (msgReset s).destLow = 0 := rfl
@[simp] theorem msgReset_destHigh (s : State) : (msgReset s).destHigh = 0 := rfl
@[simp] theorem msgReset_body (s : State) : (msgReset s).body = [] := rfl
@[simp] theorem msgReset_hdr (s : State) : (msgReset s).hdr = [] := rfl
@[simp] theorem msgReset_hdrLen (s : State) : (msgReset s).hdrLen = 0 := rfl
@[simp] theorem msgReset_myAddress (s : State) : (msgReset s).myAddress = s.myAddress := rfl
@[simp] theorem msgReset_sentAt (s : State) : (msgReset s).sentAt = s.sentAt := rfl
@[simp] theorem msgReset_isNew (s : State) : (msgReset s).isNew = true := rfl
@[simp] theorem msgReset_dir (s : State) : (msgReset s).dir = s.dir := rfl
@[simp] theorem msgReset_inputs (s : State) : (msgReset s).inputs = s.inputs := rfl
@[simp] theorem msgReset_now (s : State) : (msgReset s).now = s.now := rfl
@[simp] theorem msgReset_flushDone (s : State) : (msgReset s).flushDone = s.flushDone := rfl
@[simp] theorem msgReset_outputs (s : State) : (msgReset s).outputs = s.outputs := rfl
@[simp] theorem msgReset_bufferWrites (s : State) : (msgReset s).bufferWrites = s.bufferWrites + 1 := rfl

/-! ### `feedSom` -/

@[simp] theorem feedSom_params (s : State) : (feedSom s).params = s.params := rfl
@[simp] theorem feedSom_state (s : State) : (feedSom s).state = .header := rfl
@[simp] theorem feedSom_msgType (s : State) : (feedSom s).msgType = 0 := rfl
@[simp] theorem feedSom_typeSeen (s : State) : (feedSom s).typeSeen = false := rfl
@[simp] theorem feedSom_src (s : State) : (feedSom s).src = 0 := rfl
@[simp] theorem feedSom_destLow (s : State) : (feedSom s).destLow = 0 := rfl
@[simp] theorem feedSom_destHigh (s : State) : (feedSom s).destHigh = 0 := rfl
@[simp] theorem feedSom_body (s : State) : (feedSom s).body = [] := rfl
@[simp] theorem feedSom_hdr (s : State) : (feedSom s).hdr = [] := rfl
@[simp] theorem feedSom_hdrLen (s : State) : (feedSom s).hdrLen = 0 := rfl
@[simp] theorem feedSom_myAddress (s : State) : (feedSom s).myAddress = s.myAddress := rfl
@[simp] theorem feedSom_sentAt (s : State) : (feedSom s).sentAt = s.sentAt := rfl
@[simp] theorem feedSom_isNew (s : State) : (feedSom s).isNew = true := rfl
@[simp] theorem feedSom_dir (s : State) : (feedSom s).dir = s.dir := rfl
@[simp] theorem feedSom_inputs (s : State) : (feedSom s).inputs = s.inputs := rfl
@[simp] theorem feedSom_now (s : State) : (feedSom s).now = s.now := rfl
@[simp] theorem feedSom_flushDone (s : State) : (feedSom s).flushDone = s.flushDone := rfl
@[simp] theorem feedSom_outputs (s : State) : (feedSom s).outputs = s.outputs := rfl
@[simp] theorem feedSom_bufferWrites (s : State) : (feedSom s).bufferWrites = s.bufferWrites + 1 := rfl

/-! ### `takeInput` -/

@[simp] theorem takeInput_params (inp : Input) (rest : List Input) (s : State) : (takeInput inp rest s).params = s.params := rfl
@[simp] theorem takeInput_state (inp : Input) (rest : List Input) (s : State) : (takeInput inp rest s).state = s.state := rfl
@[simp] theorem takeInput_msgType (inp : Input) (rest : List Input) (s : State) : (takeInput inp rest s).msgType = s.msgType := rfl
@[simp] theorem takeInput_typeSeen (inp : Input) (rest : List Input) (s : State) : (takeInput inp rest s).typeSeen = s.typeSeen := rfl
@[simp] theorem takeInput_src (inp : Input) (rest : List Input) (s : State) : (takeInput inp rest s).src = s.src := rfl
@[simp] theorem takeInput_destLow (inp : Input) (rest : List Input) (s : State) : (takeInput inp rest s).destLow = s.destLow := rfl
@[simp] theorem takeInput_destHigh (inp : Input) (rest : List Input) (s : State) : (takeInput inp rest s).destHigh = s.destHigh := rfl
@[simp] theorem takeInput_body (inp : Input) (rest : List Input) (s : State) : (takeInput inp rest s).body = s.body := rfl
@[simp] theorem takeInput_hdr (inp : Input) (rest : List Input) (s : State) : (takeInput inp rest s).hdr = s.hdr := rfl
@[simp] theorem takeInput_hdrLen (inp : Input) (rest : List Input) (s : State) : (takeInput inp rest s).hdrLen = s.hdrLen := rfl
@[simp] theorem takeInput_myAddress (inp : Input) (rest : List Input) (s : State) : (takeInput inp rest s).myAddress = s.myAddress := rfl
@[simp] theorem takeInput_sentAt (inp : Input) (rest : List Input) (s : State) : (takeInput inp rest s).sentAt = s.sentAt := rfl
@[simp] theorem takeInput_isNew (inp : Input) (rest : List Input) (s : State) : (takeInput inp rest s).isNew = s.isNew := rfl
@[simp] theorem takeInput_dir (inp : Input) (rest : List Input) (s : State) : (takeInput inp rest s).dir = s.dir := rfl
@[simp] theorem takeInput_inputs (inp : Input) (rest : List Input) (s : State) : (takeInput inp rest s).inputs = rest := rfl
@[simp] theorem takeInput_now (inp : Input) (rest : List Input) (s : State) : (takeInput inp rest s).now = inp.now := rfl
@[simp] theorem takeInput_flushDone (inp : Input) (rest : List Input) (s : State) : (takeInput inp rest s).flushDone = inp.flushDone := rfl
@[simp] theorem takeInput_outputs (inp : Input) (rest : List Input) (s : State) : (takeInput inp rest s).outputs = s.outputs := rfl
@[simp] theorem takeInput_bufferWrites (inp : Input) (rest : List Input) (s : State) : (takeInput inp rest s).bufferWrites = s.bufferWrites := rfl

end Sys2Proof.Machine
end

