-- ==== Sys2Proof/Laws/Ops.lean ====
section
/-! SUPPORT. What the shared operations over the buffers do, each said once: the reads of the body, the bounded append, the
pop, the saturating header append; and that every one of them keeps both buffers in their canonical form. -/

namespace Sys2Proof.Machine

/-! ### Reads of the body (45_host_ops.md R224) -/

theorem readBody_lt {s : State} {i : Nat} (h : i < s.bodyLen) : s.readBody i = s.body[i] := by
  simp [State.readBody, h]

theorem readBody_terminator (s : State) : s.readBody s.bodyLen = 0 := by
  simp [State.readBody]

theorem readBody_above {s : State} {i : Nat} (h : s.bodyLen < i) : s.readBody i = Config.freeByte s.bufferWrites i := by
  have h1 : ¬ i < s.bodyLen := by omega
  have h2 : ¬ i = s.bodyLen := by omega
  simp only [State.readBody, h1, h2, if_false]

/-- A read depends on the logical bytes and the counter of buffer writes alone. -/
theorem readBody_congr {s t : State} (hb : t.body = s.body) (hw : t.bufferWrites = s.bufferWrites) (i : Nat) :
    t.readBody i = s.readBody i := by
  simp only [State.readBody, State.bodyLen, hb, hw]

/-- After an append the byte is at the old length, the terminator after it, and every byte below is as before. -/
theorem readBody_append {s t : State} {x : Byte} (hb : t.body = s.body ++ [x]) :
    t.readBody s.bodyLen = x ∧ t.readBody (s.bodyLen + 1) = 0 ∧ ∀ j, j < s.bodyLen → t.readBody j = s.readBody j := by
  have hlen : t.bodyLen = s.bodyLen + 1 := by simp [State.bodyLen, hb]
  refine ⟨?_, hlen ▸ readBody_terminator t, fun j hj => ?_⟩
  · rw [readBody_lt (by omega)]
    simp [hb]
  · rw [readBody_lt (by omega), readBody_lt hj]
    simp [hb, List.getElem_append_left hj]

/-! ### The access primitives (20_memory.md section 2) -/

/-- `body_append` below the bound (20_memory.md R53). -/
theorem bodyAppend_fits {s : State} (b : Byte) (h : s.bodyLen < s.params.C - 1) :
    bodyAppend b s = noteWrite { s with body := s.body ++ [b] } := if_pos h

/-- `body_append` at the bound (20_memory.md R53). -/
theorem bodyAppend_full {s : State} (b : Byte) (h : s.params.C - 1 ≤ s.bodyLen) :
    bodyAppend b s = { s with state := .overflow } := if_neg (Nat.not_lt.mpr h)

/-- `body_pop` of a buffer that ends in `rx` (20_memory.md R54). -/
theorem bodyPop_concat {s : State} {b : List Byte} {rx : Byte} (h : s.body = b ++ [rx]) :
    bodyPop s = some (rx, noteWrite { s with body := b }) := by
  simp [bodyPop, h]

/-- `body_pop` of an empty buffer is not defined (20_memory.md R54). -/
theorem bodyPop_empty {s : State} (h : s.body = []) : bodyPop s = none := by
  simp [bodyPop, h]

/-- All that `hdr_append` can do (20_memory.md R56). -/
theorem hdrAppend_cases (b : Byte) (s : State) :
    (s.hdrLen < 5 ∧ hdrAppend b s = noteWrite { s with hdr := s.hdr ++ [b], hdrLen := s.hdrLen + 1 }) ∨
    (s.hdrLen = 5 ∧ hdrAppend b s = { s with hdrLen := 6 }) ∨
    (5 < s.hdrLen ∧ hdrAppend b s = s) := by
  rcases Nat.lt_trichotomy s.hdrLen 5 with h | h | h
  · exact .inl ⟨h, if_pos h⟩
  · exact .inr (.inl ⟨h, by simp [hdrAppend, h]⟩)
  · exact .inr (.inr ⟨h, by simp only [hdrAppend, show ¬ s.hdrLen < 5 by omega, show ¬ s.hdrLen < 6 by omega, if_false]⟩)

/-! ### The canonical form of the buffers -/

theorem memory_wf_iff (s : State) :
    Memory.wf s = true ↔ s.bodyLen < s.params.C ∧ s.hdr.length = min s.hdrLen 5 ∧ s.hdrLen ≤ 6 := by
  simp [Memory.wf]

theorem bodyClear_keeps_wf {s : State} (h : Memory.wf s = true) : Memory.wf (bodyClear s) = true := by
  rw [memory_wf_iff] at h ⊢
  obtain ⟨hb, hh, hl⟩ := h
  exact ⟨by simp [State.bodyLen]; omega, hh, hl⟩

theorem bodyAppend_keeps_wf (b : Byte) {s : State} (h : Memory.wf s = true) : Memory.wf (bodyAppend b s) = true := by
  rw [memory_wf_iff] at h ⊢
  rcases Nat.lt_or_ge s.bodyLen (s.params.C - 1) with hlt | hge
  · rw [bodyAppend_fits b hlt]
    refine ⟨?_, h.2⟩
    simp only [State.bodyLen, noteWrite_body, noteWrite_params, List.length_append, List.length_singleton] at hlt ⊢
    omega
  · rw [bodyAppend_full b hge]
    exact h

theorem bodyPop_keeps_wf {s t : State} {rx : Byte} (h : Memory.wf s = true) (hp : bodyPop s = some (rx, t)) :
    Memory.wf t = true := by
  rw [memory_wf_iff] at h ⊢
  rcases List.eq_nil_or_concat s.body with he | ⟨b, v, hb⟩
  · simp [bodyPop_empty he] at hp
  · rw [List.concat_eq_append] at hb
    rw [bodyPop_concat hb] at hp
    cases hp
    refine ⟨?_, h.2⟩
    have := h.1
    simp only [State.bodyLen, hb, List.length_append, List.length_singleton] at this
    simp only [State.bodyLen, noteWrite_body, noteWrite_params]
    omega

theorem hdrAppend_keeps_wf (b : Byte) {s : State} (h : Memory.wf s = true) : Memory.wf (hdrAppend b s) = true := by
  rw [memory_wf_iff] at h ⊢
  obtain ⟨hb, hh, hl⟩ := h
  rcases hdrAppend_cases b s with ⟨hlt, e⟩ | ⟨heq, e⟩ | ⟨-, e⟩ <;> rw [e]
  · exact ⟨hb, by simp [hh]; omega, by simp; omega⟩
  · exact ⟨hb, by simp [hh, heq], by simp⟩
  · exact ⟨hb, hh, hl⟩

theorem msgReset_keeps_wf {s : State} (h : Memory.wf s = true) : Memory.wf (msgReset s) = true := by
  rw [memory_wf_iff] at h ⊢
  exact ⟨by simp [State.bodyLen]; omega, by simp, by simp⟩

theorem powerOn_memory_wf {P : Params} (h : paramsLegal P = true) : Memory.wf (State.powerOn P) = true := by
  rw [memory_wf_iff]
  simp [paramsLegal] at h
  exact ⟨by simp [State.bodyLen, State.powerOn]; omega, rfl, by simp [State.powerOn]⟩

theorem reset_memory_wf : Memory.wf State.reset = true := by decide

end Sys2Proof.Machine
end

