-- ==== Sys2Proof/Laws/Framing.lean ====
section
/-! SUPPORT. One lemma per arm of the framing machine (40_framing.md R102), with the conditions under which that arm is the
one taken, and what the header parser and the end-of-frame check can do. -/

namespace Sys2Proof.Machine

/-- What a legal record says of the markers, as inequalities (00_scope.md R6). -/
theorem markers_of_legal {P : Params} (h : paramsLegal P = true) :
    P.EOM ≠ P.SOM ∧ P.EOH ≠ P.SOM ∧ P.EOH ≠ P.EOM ∧ P.SEP ≠ P.SOM ∧ P.SEP ≠ P.EOM ∧ P.SEP ≠ P.EOH := by
  simp only [paramsLegal, decide_eq_true_eq] at h
  obtain ⟨h1, h2, h3, h4, h5, h6, -⟩ := h
  exact ⟨fun e => h2 e.symm, fun e => h1 e.symm, h3, h4, h6, h5⟩

theorem capacity_of_legal {P : Params} (h : paramsLegal P = true) : 2 ≤ P.C := by
  simp only [paramsLegal, decide_eq_true_eq] at h
  exact h.2.2.2.2.2.2.2.2.2.1

/-- An operation that hands over a byte is `FEED` of it (00_scope.md R9). -/
theorem exec_fedByte {i : Instr} {s : State} {x : Byte} (h : fedByte s.params i = some x) :
    exec i s = .next (feedStep x s) := by
  cases i <;> cases h <;> rfl

/-- `answers` for an operation that hands over a byte, from its arm. -/
theorem answers_of_feed {i : Instr} {s u : State} {x : Byte} {evs : List Event} {k : Nat}
    (hi : fedByte s.params i = some x) (h : feedByte x s = ({ u with bufferWrites := k }, evs)) :
    answers i s evs (stateCode u.state) u :=
  ⟨k, by rw [exec_fedByte hi]; simp only [feedStep, h]⟩

/-- The next state of an operation that hands over a byte, from its arm. -/
theorem exec_of_feed {i : Instr} {s u : State} {x : Byte} {evs : List Event} (hi : fedByte s.params i = some x)
    (h : feedByte x s = (u, evs)) : exec i s = .next (respond evs (stateCode u.state) u) := by
  rw [exec_fedByte hi]; simp only [feedStep, h]

/-! ### The arms -/

theorem feedByte_som (s : State) : feedByte s.params.SOM s = (feedSom s, []) := by
  simp [feedByte]

theorem feedByte_terminal {s : State} {x : Byte} (hx : x ≠ s.params.SOM) (ht : isTerminal s.state = true) :
    feedByte x s = (s, []) := by
  simp [feedByte, hx, ht]

theorem feedByte_idle {s : State} {x : Byte} (hx : x ≠ s.params.SOM) (hm : x ≠ s.params.EOM) (hs : s.state = .idle) :
    feedByte x s = (s, []) := by
  simp [feedByte, hx, hm, hs, isTerminal]

theorem feedByte_stray {s : State} (hm : s.params.EOM ≠ s.params.SOM) (hs : s.state = .idle ∨ s.state = .header) :
    feedByte s.params.EOM s = (feedEomStray s, []) := by
  rcases hs with hs | hs <;> simp [feedByte, hm, hs, isTerminal]

theorem feedByte_header {s : State} {x : Byte} (hx : x ≠ s.params.SOM) (hm : x ≠ s.params.EOM) (hh : x ≠ s.params.EOH)
    (hs : s.state = .header) : feedByte x s = (hdrAppend x s, []) := by
  simp [feedByte, hx, hm, hh, hs, isTerminal]

theorem feedByte_endOfHeader {s : State} (hx : s.params.EOH ≠ s.params.SOM) (hm : s.params.EOH ≠ s.params.EOM)
    (hs : s.state = .header) : feedByte s.params.EOH s = (parseHeader s, []) := by
  simp [feedByte, hx, hm, hs, isTerminal]

theorem feedByte_type {s : State} {x : Byte} (hx : x ≠ s.params.SOM) (hm : x ≠ s.params.EOM) (hs : s.state = .active)
    (ht : s.typeSeen = false) : feedByte x s = (feedType x s, []) := by
  simp [feedByte, hx, hm, hs, ht, isTerminal]

theorem feedByte_body {s : State} {x : Byte} (hx : x ≠ s.params.SOM) (hm : x ≠ s.params.EOM) (hs : s.state = .active)
    (ht : s.typeSeen = true) : feedByte x s = (bodyAppend x s, []) := by
  simp [feedByte, hx, hm, hs, ht, isTerminal]

theorem feedByte_endOfFrame {s : State} (hm : s.params.EOM ≠ s.params.SOM) (hs : s.state = .active) :
    feedByte s.params.EOM s = feedEomActive s := by
  simp [feedByte, hm, hs, isTerminal]

/-! ### The end-of-frame check and the header parser -/

/-- `feed_eom_active` with a byte buffered (40_framing.md R113 to R116). -/
theorem feedEomActive_concat {s : State} {b : List Byte} {rx : Byte} (h : s.body = b ++ [rx]) :
    feedEomActive s =
      if rx = crc8 ([s.destLow, s.destHigh, s.src, s.msgType] ++ b) then
        ({ s with body := b, state := .ready, isNew := true, bufferWrites := s.bufferWrites + 1 }, [])
      else
        ({ s with body := b, state := .aborted, bufferWrites := s.bufferWrites + 1 },
          [.crcMismatch rx (crc8 ([s.destLow, s.destHigh, s.src, s.msgType] ++ b))]) := by
  simp only [feedEomActive, bodyPop_concat h]
  rfl

/-- `feed_eom_active` with nothing buffered (40_framing.md R117). -/
theorem feedEomActive_empty {s : State} (h : s.body = []) : feedEomActive s = ({ s with state := .aborted }, []) := by
  simp only [feedEomActive, bodyPop_empty h]
  rfl

/-- A header of no byte, or of more than five, is ABORTED and nothing else is written (41_header.md R131). -/
theorem parseHeader_badLength {s : State} (h : s.hdrLen = 0 ∨ 5 < s.hdrLen) :
    parseHeader s = { s with state := .aborted } := if_pos h

/-- A header of a legal length is parsed, or ABORTED with nothing else written (41_header.md R130). -/
theorem parseHeader_parsed {s : State} {lo hi sr : Byte} (h1 : 1 ≤ s.hdrLen) (h5 : s.hdrLen ≤ 5)
    (h : headerFields s.params s.hdr = some (lo, hi, sr)) :
    parseHeader s = { s with state := .active, destLow := lo, destHigh := hi, src := sr, body := [],
                             bufferWrites := s.bufferWrites + 1 } := by
  have hl : ¬ (s.hdrLen = 0 ∨ 5 < s.hdrLen) := by omega
  simp only [parseHeader, hl, if_false, h]
  rfl

theorem parseHeader_malformed {s : State} (h : headerFields s.params s.hdr = none) :
    parseHeader s = { s with state := .aborted } := by
  simp only [parseHeader, h]
  split <;> rfl

/-- All that the header parser can do (41_header.md R130). -/
theorem parseHeader_cases (s : State) :
    parseHeader s = { s with state := .aborted } ∨
    ∃ lo hi sr, headerFields s.params s.hdr = some (lo, hi, sr) ∧ 1 ≤ s.hdrLen ∧ s.hdrLen ≤ 5 ∧
      parseHeader s = { s with state := .active, destLow := lo, destHigh := hi, src := sr, body := [],
                               bufferWrites := s.bufferWrites + 1 } := by
  by_cases hl : s.hdrLen = 0 ∨ 5 < s.hdrLen
  · exact .inl (parseHeader_badLength hl)
  · cases hf : headerFields s.params s.hdr with
    | none => exact .inl (parseHeader_malformed hf)
    | some p =>
      obtain ⟨lo, hi, sr⟩ := p
      exact .inr ⟨lo, hi, sr, rfl, by omega, by omega, parseHeader_parsed (by omega) (by omega) hf⟩

/-! ### Everything a received byte can do -/

/-- All that `FEED` can do, by the arm it takes (40_framing.md R102). -/
theorem feedByte_cases (x : Byte) (s : State) :
    (x = s.params.SOM ∧ feedByte x s = (feedSom s, [])) ∨
    (x ≠ s.params.SOM ∧ isTerminal s.state = true ∧ feedByte x s = (s, [])) ∨
    (x ≠ s.params.SOM ∧ x ≠ s.params.EOM ∧ s.state = .idle ∧ feedByte x s = (s, [])) ∨
    (x ≠ s.params.SOM ∧ x = s.params.EOM ∧ (s.state = .idle ∨ s.state = .header) ∧ feedByte x s = (msgReset s, [])) ∨
    (x ≠ s.params.SOM ∧ x ≠ s.params.EOM ∧ x = s.params.EOH ∧ s.state = .header ∧ feedByte x s = (parseHeader s, [])) ∨
    (x ≠ s.params.SOM ∧ x ≠ s.params.EOM ∧ x ≠ s.params.EOH ∧ s.state = .header ∧ feedByte x s = (hdrAppend x s, [])) ∨
    (x ≠ s.params.SOM ∧ x = s.params.EOM ∧ s.state = .active ∧ feedByte x s = feedEomActive s) ∨
    (x ≠ s.params.SOM ∧ x ≠ s.params.EOM ∧ s.state = .active ∧ s.typeSeen = false ∧ feedByte x s = (feedType x s, [])) ∨
    (x ≠ s.params.SOM ∧ x ≠ s.params.EOM ∧ s.state = .active ∧ s.typeSeen = true ∧ feedByte x s = (bodyAppend x s, [])) := by
  by_cases h1 : x = s.params.SOM
  · exact .inl ⟨h1, h1 ▸ feedByte_som s⟩
  refine .inr ?_
  by_cases h2 : x = s.params.EOM
  · subst h2
    cases hs : s.state with
    | idle => simp [h1, feedByte_stray h1 (.inl hs), feedEomStray, isTerminal]
    | header => simp [h1, feedByte_stray h1 (.inr hs), feedEomStray, isTerminal]
    | active => simp [h1, feedByte_endOfFrame h1 hs, isTerminal]
    | ready | overflow | aborted => exact .inl ⟨h1, rfl, feedByte_terminal h1 (by rw [hs]; rfl)⟩
  · cases hs : s.state with
    | idle => simp [h1, h2, feedByte_idle h1 h2 hs, isTerminal]
    | header =>
      by_cases h3 : x = s.params.EOH
      · subst h3
        simp [h1, h2, feedByte_endOfHeader h1 h2 hs, isTerminal]
      · simp [h1, h2, h3, feedByte_header h1 h2 h3 hs, isTerminal]
    | active =>
      cases ht : s.typeSeen with
      | false => simp [h1, h2, feedByte_type h1 h2 hs ht, isTerminal]
      | true => simp [h1, h2, feedByte_body h1 h2 hs ht, isTerminal]
    | ready | overflow | aborted => exact .inl ⟨h1, rfl, feedByte_terminal h1 (by rw [hs]; rfl)⟩

end Sys2Proof.Machine
end

