-- ==== Sys2Proof/Laws/Exec.lean ====
section
/-! SUPPORT. What each operation can do, said once: the cases of the shared operations, and of `exec` when it answers with a
next state. Invariants and frames over all instructions go through `exec_cases`. -/

namespace Sys2Proof.Machine

theorem feedSom_eq (s : State) : feedSom s = { cleared .header s with bufferWrites := s.bufferWrites + 1 } := rfl

theorem msgReset_eq (s : State) : msgReset s = { cleared .idle s with bufferWrites := s.bufferWrites + 1 } := rfl

/-- `START t` up to its output: the message reset alone for type 0, an ACTIVE message otherwise (45_host_ops.md R211). -/
theorem startMessage_cases (x : Byte) (s : State) :
    (x = 0 ∧ startMessage x s = msgReset s) ∨
    (x ≠ 0 ∧ startMessage x s = { msgReset s with msgType := x, typeSeen := true, state := .active }) := by
  by_cases h : x = 0
  · subst h
    exact .inl ⟨rfl, rfl⟩
  · exact .inr ⟨h, by simp only [startMessage, ne_eq, h, not_false_eq_true, if_true]⟩

/-- `APPEND x` up to its output (45_host_ops.md R215). -/
theorem appendByte_cases (x : Byte) (s : State) :
    appendByte x s = s ∨ (s.state = .active ∧ s.typeSeen = true ∧ appendByte x s = bodyAppend x s) := by
  by_cases h : s.state = .active ∧ s.typeSeen = true
  · exact .inr ⟨h.1, h.2, if_pos h⟩
  · exact .inl (if_neg h)

/-- The bounded append (20_memory.md R53). -/
theorem bodyAppend_cases (x : Byte) (s : State) :
    (s.bodyLen < s.params.C - 1 ∧ bodyAppend x s = noteWrite { s with body := s.body ++ [x] }) ∨
    (s.params.C - 1 ≤ s.bodyLen ∧ bodyAppend x s = { s with state := .overflow }) := by
  by_cases h : s.bodyLen < s.params.C - 1
  · exact .inl ⟨h, bodyAppend_fits x h⟩
  · exact .inr ⟨by omega, bodyAppend_full x (by omega)⟩

/-- The end-of-frame check, without the value of the checksum (40_framing.md R113). -/
theorem feedEomActive_cases (s : State) :
    (s.body = [] ∧ feedEomActive s = ({ s with state := .aborted }, [])) ∨
    ∃ b rx, s.body = b ++ [rx] ∧
      (feedEomActive s = ({ s with body := b, state := .ready, isNew := true, bufferWrites := s.bufferWrites + 1 }, []) ∨
       ∃ c, feedEomActive s =
         ({ s with body := b, state := .aborted, bufferWrites := s.bufferWrites + 1 }, [.crcMismatch rx c])) := by
  rcases List.eq_nil_or_concat s.body with h | ⟨b, rx, h⟩
  · exact .inl ⟨h, feedEomActive_empty h⟩
  · rw [List.concat_eq_append] at h
    refine .inr ⟨b, rx, h, ?_⟩
    rw [feedEomActive_concat h]
    split
    · exact .inl rfl
    · exact .inr ⟨_, rfl⟩

/-- No arm of `FEED` writes the record of outputs. -/
@[simp] theorem feedByte_outputs (x : Byte) (s : State) : (feedByte x s).1.outputs = s.outputs := by
  rcases feedByte_cases x s with ⟨-, e⟩ | ⟨-, -, e⟩ | ⟨-, -, -, e⟩ | ⟨-, -, -, e⟩ | ⟨-, -, -, -, e⟩ | ⟨-, -, -, -, e⟩ |
    ⟨-, -, -, e⟩ | ⟨-, -, -, -, e⟩ | ⟨-, -, -, -, e⟩ <;> rw [e]
  · rfl
  · rfl
  · rcases parseHeader_cases s with e | ⟨_, _, _, -, -, -, e⟩ <;> rw [e]
  · rcases hdrAppend_cases x s with ⟨-, e⟩ | ⟨-, e⟩ | ⟨-, e⟩ <;> rw [e]; rfl
  · rcases feedEomActive_cases s with ⟨-, e⟩ | ⟨_, _, -, e | ⟨_, e⟩⟩ <;> rw [e]
  · rfl
  · rcases bodyAppend_cases x s with ⟨-, e⟩ | ⟨-, e⟩ <;> rw [e]; rfl

/-- A `FEED` records one output, its events and the state code after it (40_framing.md R102). -/
theorem feedStep_outputs (x : Byte) (s : State) :
    (feedStep x s).outputs = s.outputs ++ [⟨(feedByte x s).2, stateCode (feedByte x s).1.state⟩] := by
  rw [feedStep, respond_outputs, feedByte_outputs]

/-! ### `SEND` (44_transmit.md R180) -/

theorem sendReady_iff (s : State) :
    sendReady s = true ↔ (s.state = .ready ∨ s.state = .active) ∧ s.myAddress ≠ 0 := by
  simp [sendReady]

/-- The length of a composed frame (44_transmit.md R196). -/
theorem compose_length (s : State) :
    (compose s).length =
      6 + s.bodyLen + (if s.destLow ≠ s.destHigh then 2 else 0) + (if s.src ≠ s.params.MASTER then 1 else 0) := by
  simp only [compose, List.length_append, State.bodyLen]
  split <;> split <;> simp <;> omega

/-- All that `SEND` can answer. -/
theorem execSend_cases {s t : State} (h : execSend s = .next t) :
    (sendReady s = true ∧ s.flushDone = true ∧ ∃ frame, frame = compose { s with src := s.myAddress } ∧
      t = respond ([.dir .tx] ++ frame.map .tx ++ [.flush, .dir .rx]) frame.length
            { s with src := s.myAddress, sentAt := s.now % 2 ^ s.params.TSW, dir := .rx }) ∨
    (sendReady s = false ∧ t = respond [] 0 s) := by
  simp only [execSend] at h
  split at h
  · rename_i hs
    split at h
    · rename_i hf
      cases h
      exact .inl ⟨hs, hf, _, rfl, by simp only [sendUpToFlush, List.append_assoc]; rfl⟩
    · cases h
  · rename_i hs
    cases h
    exact .inr ⟨by simpa using hs, rfl⟩

/-! ### Every operation that answers -/

/-- A query answers with its state as it was (45_host_ops.md R218). -/
theorem exec_query {i : Instr} {s t : State} (hq : isQuery i = true) (h : exec i s = .next t) :
    ∃ n, t = respond [] n s := by
  cases i <;> first | (cases h; exact ⟨_, rfl⟩) | (cases hq)

/-- All that an operation can answer, by kind: a received byte, the eight writers of the record, a query. -/
theorem exec_cases {i : Instr} {s t : State} (h : exec i s = .next t) :
    (∃ x, fedByte s.params i = some x ∧ t = feedStep x s) ∨
    (i = .reset ∧ t = respond [] 0 (msgReset s)) ∨
    (∃ x, i = .start x ∧ t = respond [] (stateCode (startMessage x s).state) (startMessage x s)) ∨
    (∃ a, i = .setAddr a ∧ t = respond [] 0 { s with myAddress := a }) ∨
    (∃ lo hi, i = .setDest lo hi ∧ (s.state = .active ∨ s.state = .ready) ∧
      t = respond [] 1 { s with destLow := lo, destHigh := hi }) ∨
    (∃ lo hi, i = .setDest lo hi ∧ ¬ (s.state = .active ∨ s.state = .ready) ∧ t = respond [] 0 s) ∨
    (∃ x, i = .append x ∧ t = respond [] (stateCode (appendByte x s).state) (appendByte x s)) ∨
    (i = .send ∧ sendReady s = true ∧ s.flushDone = true ∧ ∃ frame, frame = compose { s with src := s.myAddress } ∧
      t = respond ([.dir .tx] ++ frame.map .tx ++ [.flush, .dir .rx]) frame.length
            { s with src := s.myAddress, sentAt := s.now % 2 ^ s.params.TSW, dir := .rx }) ∨
    (i = .send ∧ sendReady s = false ∧ t = respond [] 0 s) ∨
    (i = .clearNew ∧ t = respond [] 0 (clearNew s)) ∨
    (isQuery i = true ∧ ∃ n, t = respond [] n s) := by
  cases i
  case feed | byteSom | byteEom | byteEoh | byteSep | byteData =>
    cases h
    exact .inl ⟨_, rfl, rfl⟩
  case reset =>
    cases h
    exact .inr (.inl ⟨rfl, rfl⟩)
  case start x =>
    cases h
    exact .inr (.inr (.inl ⟨x, rfl, rfl⟩))
  case setAddr a =>
    cases h
    exact .inr (.inr (.inr (.inl ⟨a, rfl, rfl⟩)))
  case setDest lo hi =>
    simp only [exec, execSetDest] at h
    split at h <;> rename_i hs <;> cases h
    · exact .inr (.inr (.inr (.inr (.inl ⟨lo, hi, rfl, hs, rfl⟩))))
    · exact .inr (.inr (.inr (.inr (.inr (.inl ⟨lo, hi, rfl, hs, rfl⟩)))))
  case append x =>
    cases h
    exact .inr (.inr (.inr (.inr (.inr (.inr (.inl ⟨x, rfl, rfl⟩))))))
  case send =>
    refine .inr (.inr (.inr (.inr (.inr (.inr (.inr ?_))))))
    rcases execSend_cases h with h | h
    · exact .inl ⟨rfl, h⟩
    · exact .inr (.inl ⟨rfl, h⟩)
  case clearNew =>
    cases h
    exact .inr (.inr (.inr (.inr (.inr (.inr (.inr (.inr (.inr (.inl ⟨rfl, rfl⟩)))))))))
  all_goals exact .inr (.inr (.inr (.inr (.inr (.inr (.inr (.inr (.inr (.inr ⟨rfl, exec_query rfl h⟩)))))))))

end Sys2Proof.Machine
end

