-- ==== Sys2Proof/Laws/FeedSeq.lean ====
section
/-! SUPPORT. Sequences of received bytes (30_encoding.md R82): in two parts, header bytes one after the other, body bytes
one after the other. -/

namespace Sys2Proof.Machine

theorem feedSeq_append (a b : List Byte) (s : State) : feedSeq (a ++ b) s = feedSeq b (feedSeq a s) := by
  induction a generalizing s with
  | nil => rfl
  | cons x a ih => exact ih _

/-- `FEEDSEQ` returns the state code after its last byte (30_encoding.md R82). -/
theorem feedSeqOutput_result (bs : List Byte) (s : State) :
    (feedSeqOutput bs s).result = stateCode (feedSeq bs s).state := by
  induction bs generalizing s with
  | nil => rfl
  | cons x bs ih => exact ih _

/-- `FEEDSEQ` of two parts: the events of the first, then those of the second. -/
theorem feedSeqOutput_append (a b : List Byte) (s : State) :
    feedSeqOutput (a ++ b) s =
      ⟨(feedSeqOutput a s).events ++ (feedSeqOutput b (feedSeq a s)).events, (feedSeqOutput b (feedSeq a s)).result⟩ := by
  induction a generalizing s with
  | nil => rfl
  | cons x a ih => simp only [List.cons_append, feedSeqOutput, feedSeq, ih, List.append_assoc]

/-- Up to five header bytes that are no message marker are stored one after the other (40_framing.md R108). -/
theorem feedSeq_header {bs : List Byte} {r : State} (hs : r.state = .header) (hlen : r.hdrLen + bs.length ≤ 5)
    (hb : ∀ x ∈ bs, x ≠ r.params.SOM ∧ x ≠ r.params.EOM ∧ x ≠ r.params.EOH) :
    ∃ k, feedSeq bs r = { r with hdr := r.hdr ++ bs, hdrLen := r.hdrLen + bs.length, bufferWrites := k,
                                 outputs := r.outputs ++ List.replicate bs.length ⟨[], 1⟩ } := by
  induction bs generalizing r with
  | nil => exact ⟨r.bufferWrites, by simp [feedSeq]⟩
  | cons x bs ih =>
    obtain ⟨h1, h2, h3⟩ := hb x (by simp)
    have hl : r.hdrLen < 5 := by simp at hlen; omega
    have hf := feedByte_header h1 h2 h3 hs
    rw [hdrAppend, if_pos hl] at hf
    have hcode : stateCode r.state = 1 := by rw [hs]; rfl
    obtain ⟨k, hk⟩ := ih (r := respond [] 1 (noteWrite { r with hdr := r.hdr ++ [x], hdrLen := r.hdrLen + 1 })) hs
      (by simp at hlen ⊢; omega) (fun y hy => hb y (by simp [hy]))
    refine ⟨k, ?_⟩
    simp only [feedSeq, feedStep, hf, noteWrite_state, hcode]
    rw [hk]
    simp [respond, noteWrite, List.replicate_succ, hs]
    omega

/-- Body bytes that are no message marker are appended while they fit (40_framing.md R111). -/
theorem feedSeq_body {bs : List Byte} {r : State} (hs : r.state = .active) (ht : r.typeSeen = true)
    (hlen : r.bodyLen + bs.length ≤ r.params.C - 1) (hb : ∀ x ∈ bs, x ≠ r.params.SOM ∧ x ≠ r.params.EOM) :
    ∃ k, feedSeq bs r = { r with body := r.body ++ bs, bufferWrites := k,
                                 outputs := r.outputs ++ List.replicate bs.length ⟨[], 2⟩ } := by
  induction bs generalizing r with
  | nil => exact ⟨r.bufferWrites, by simp [feedSeq]⟩
  | cons x bs ih =>
    obtain ⟨h1, h2⟩ := hb x (by simp)
    have hl : r.bodyLen < r.params.C - 1 := by simp at hlen ⊢; omega
    have hf := feedByte_body h1 h2 hs ht
    rw [bodyAppend_fits _ hl] at hf
    have hcode : stateCode r.state = 2 := by rw [hs]; rfl
    obtain ⟨k, hk⟩ := ih (r := respond [] 2 (noteWrite { r with body := r.body ++ [x] })) hs ht
      (by simp [State.bodyLen] at hlen ⊢; omega) (fun y hy => hb y (by simp [hy]))
    refine ⟨k, ?_⟩
    simp only [feedSeq, feedStep, hf, noteWrite_state, hcode]
    rw [hk]
    simp [respond, noteWrite, List.replicate_succ, hs]

end Sys2Proof.Machine
end

