-- ==== Sys2Proof/Laws/PerInstr.lean ====
section
/-! SUPPORT. One lemma per instruction: its encoding lies in its own row of opcode_table.json. A command is a word that its
row's mask and value select; a wire row is the byte it stands for. -/

namespace Sys2Proof.Laws.EncodesRow

open Sys2Proof Sys2Proof.Machine

/-- The encoding of `i` lies in the row of its mnemonic, for every parameter record. -/
def Statement (i : Instr) : Prop :=
  ∀ P : Params,
    match encode P i with
    | .command cw => ∃ row ∈ commandRows, row.mnemonic = mnemonic i ∧ cw &&& row.mask = row.value
    | .wire b => fedByte P i = some b

/-- A word of the operation code of a row without a selector lies in that row. -/
theorem of_op {i : Instr} (name : String) {op : BitVec 4} {a b : Byte} (he : ∀ P, encode P i = .command (cmdWord op a b))
    (hm : name = mnemonic i) (hr : ⟨name, cmdWord op 0 0, 0xF0000⟩ ∈ commandRows) : Statement i := by
  intro P
  simp only [he P]
  exact ⟨_, hr, hm, cmdWord_and_opMask op a b⟩

/-- A word of the operation code and the selector of a query row lies in that row. -/
theorem of_selector {i : Instr} (name : String) {op : BitVec 4} {a b : Byte} (he : ∀ P, encode P i = .command (cmdWord op a b))
    (hm : name = mnemonic i) (hr : ⟨name, cmdWord op a 0, 0xFFF00⟩ ∈ commandRows) : Statement i := by
  intro P
  simp only [he P]
  exact ⟨_, hr, hm, cmdWord_and_selectorMask op a b⟩

theorem reset : Statement .reset := of_op "RESET" (fun _ => rfl) rfl (by decide)

theorem start (t : Byte) : Statement (.start t) := of_op "START" (fun _ => rfl) rfl (by decide)

theorem feed (x : Byte) : Statement (.feed x) := of_op "FEED" (fun _ => rfl) rfl (by decide)

theorem setAddr (addr : Byte) : Statement (.setAddr addr) := of_op "SET_ADDR" (fun _ => rfl) rfl (by decide)

theorem setDest (lo hi : Byte) : Statement (.setDest lo hi) := of_op "SET_DEST" (fun _ => rfl) rfl (by decide)

theorem append (x : Byte) : Statement (.append x) := of_op "APPEND" (fun _ => rfl) rfl (by decide)

theorem send : Statement .send := of_op "SEND" (fun _ => rfl) rfl (by decide)

theorem clearNew : Statement .clearNew := of_op "CLEAR_NEW" (fun _ => rfl) rfl (by decide)

theorem getState : Statement .getState := of_selector "GET_STATE" (fun _ => rfl) rfl (by decide)

theorem getType : Statement .getType := of_selector "GET_TYPE" (fun _ => rfl) rfl (by decide)

theorem getSrc : Statement .getSrc := of_selector "GET_SRC" (fun _ => rfl) rfl (by decide)

theorem getDestLo : Statement .getDestLo := of_selector "GET_DEST_LO" (fun _ => rfl) rfl (by decide)

theorem getDestHi : Statement .getDestHi := of_selector "GET_DEST_HI" (fun _ => rfl) rfl (by decide)

theorem getBodylen : Statement .getBodylen := of_selector "GET_BODYLEN" (fun _ => rfl) rfl (by decide)

theorem getBody (idx : Byte) : Statement (.getBody idx) := of_selector "GET_BODY" (fun _ => rfl) rfl (by decide)

theorem getIsnew : Statement .getIsnew := of_selector "GET_ISNEW" (fun _ => rfl) rfl (by decide)

theorem toMe : Statement .toMe := of_selector "TO_ME" (fun _ => rfl) rfl (by decide)

theorem toMaster : Statement .toMaster := of_selector "TO_MASTER" (fun _ => rfl) rfl (by decide)

theorem getSentat : Statement .getSentat := of_selector "GET_SENTAT" (fun _ => rfl) rfl (by decide)

theorem getDir : Statement .getDir := of_selector "GET_DIR" (fun _ => rfl) rfl (by decide)

theorem getMyaddr : Statement .getMyaddr := of_selector "GET_MYADDR" (fun _ => rfl) rfl (by decide)

theorem byteSom : Statement .byteSom := fun _ => rfl

theorem byteEom : Statement .byteEom := fun _ => rfl

theorem byteEoh : Statement .byteEoh := fun _ => rfl

theorem byteSep : Statement .byteSep := fun _ => rfl

theorem byteData (x : Byte) : Statement (.byteData x) := fun _ => rfl

end Sys2Proof.Laws.EncodesRow
end

