-- ==== Sys2Proof/Tests/Slice0.lean ====
section
/-! SUPPORT. Tests of the model against words written out from the encodings of 30_encoding.md, against the vectors of
95_test_vectors.md, and witnesses that the hypotheses of the obligations can be met. Expected values are the spec's own;
every machine here is built with `P_REF`. -/

namespace Sys2Proof.Tests

open Sys2Proof Sys2Proof.Machine

/-! ### Small states -/

/-- A machine in HEADER that has been fed the bytes `bs`, at most five of them. -/
def inHeader (bs : List Byte) : State := { State.reset with state := .header, hdr := bs, hdrLen := bs.length }

/-- A machine whose message is to node 5 from the master with type 0x43 (the message of S6) and the given body. -/
def holding (e : EngineState) (body : List Byte) : State :=
  { State.reset with state := e, msgType := 0x43, typeSeen := true, destLow := 5, destHigh := 5, src := 0xFE,
                     body := body }

/-- Fifteen body bytes, `C - 1` under `P_REF`. -/
def fifteen : List Byte := [1, 2, 3, 4, 5, 6, 7, 8, 9, 10, 11, 12, 13, 14, 15]

/-- `s` with one operation issued. -/
def issued (e : Encoded) (s : State) : State := { s with inputs := [⟨e, 7, true⟩] }

/-- The next state of `i` at `s`, read by `f`. -/
def after {α : Type} (i : Instr) (s : State) (f : State → α) : Option α :=
  match exec i s with
  | .next t => some (f t)
  | .fault _ => none
  | .refused _ => none

/-- The result of `i` at a state with no outputs yet. -/
def result (i : Instr) (s : State) : Option (List Nat) := after i s fun t => t.outputs.map (·.result)

/-! ### Well-formedness and decoding -/

/-- The one ill-formed term, for each of the four markers (opcode_table.json, BYTE_DATA). -/
theorem test_illFormed_refused :
    Instr.wellFormed Params.ref (.byteData 0x3C) = false ∧ Instr.wellFormed Params.ref (.byteData 0x3E) = false ∧
    Instr.wellFormed Params.ref (.byteData 0x3A) = false ∧ Instr.wellFormed Params.ref (.byteData 0x2D) = false := by
  decide

/-- 30_encoding.md R85: `cw[19:16]` = 0x0 to 0x7, bit by bit: four bits of code, eight of `a`, eight of `b`. -/
theorem test_decode_commands :
    decodeCommand 0b0000_00000000_00000000 = .ok .reset ∧
    decodeCommand 0b0001_00000000_01000011 = .ok (.start 0x43) ∧
    decodeCommand 0b0010_00000000_00111100 = .ok (.feed 0x3C) ∧
    decodeCommand 0b0011_00000000_00000101 = .ok (.setAddr 0x05) ∧
    decodeCommand 0b0100_00000010_00000111 = .ok (.setDest 0x02 0x07) ∧
    decodeCommand 0b0101_00000000_00001001 = .ok (.append 0x09) ∧
    decodeCommand 0b0110_00000000_00000000 = .ok .send ∧
    decodeCommand 0b0111_00000000_00000000 = .ok .clearNew := by
  decide

/-- 30_encoding.md R86: code 0x8 with each selector; the words are those of 95_test_vectors.md PR1 and O11. -/
theorem test_decode_queries :
    decodeCommand 0x80000 = .ok .getState ∧ decodeCommand 0x80100 = .ok .getType ∧
    decodeCommand 0x80200 = .ok .getSrc ∧ decodeCommand 0x80300 = .ok .getDestLo ∧
    decodeCommand 0x80400 = .ok .getDestHi ∧ decodeCommand 0x80500 = .ok .getBodylen ∧
    decodeCommand 0x80603 = .ok (.getBody 3) ∧ decodeCommand 0x80700 = .ok .getIsnew ∧
    decodeCommand 0x80800 = .ok .toMe ∧ decodeCommand 0x80900 = .ok .toMaster ∧
    decodeCommand 0x80A00 = .ok .getSentat ∧ decodeCommand 0x80B00 = .ok .getDir ∧
    decodeCommand 0x80C00 = .ok .getMyaddr := by
  decide

/-- opcode_table.json's wire rows under `P_REF`; the last two are no marker. -/
theorem test_decode_wire :
    decode Params.ref (.wire 0x3C) = .ok .byteSom ∧ decode Params.ref (.wire 0x3E) = .ok .byteEom ∧
    decode Params.ref (.wire 0x3A) = .ok .byteEoh ∧ decode Params.ref (.wire 0x2D) = .ok .byteSep ∧
    decode Params.ref (.wire 0x00) = .ok (.byteData 0) ∧ decode Params.ref (.wire 0xFF) = .ok (.byteData 0xFF) := by
  decide

/-- 30_encoding.md R88 at both ends of each reserved range, and 95_test_vectors.md O14. -/
theorem test_decode_reserved :
    decodeCommand 0x90000 = .error (.reservedOp 9) ∧ decodeCommand 0xFFFFF = .error (.reservedOp 15) ∧
    decodeCommand 0x80D00 = .error (.reservedSelector 0x0D) ∧
    decodeCommand 0x8FF00 = .error (.reservedSelector 0xFF) := by
  decide

/-- The same words through the view of opcode_table.json's numbering, and the first step after reset. -/
theorem test_tableWord :
    decodeTableWord 24 0x4FEFE = some (.setDest 0xFE 0xFE) ∧ decodeTableWord 8 0x3E = some .byteEom ∧
    decodeTableWord 24 0x80D00 = none ∧ decodeTableWord 24 0x100000 = none ∧ decodeTableWord 8 0x100 = none ∧
    (match step (State.reset.withFetchWord 24 0x30005) with
      | .next t => some t.myAddress
      | .fault _ => none
      | .refused _ => none) = some 5 := by
  decide

/-! ### One step of each operation -/

/-- O1: `RESET` in READY with `isNew = 0`. -/
theorem test_reset :
    after .reset { holding .ready [0x10] with isNew := false, myAddress := 5, sentAt := 9 }
      (fun t => (t.state, t.msgType, t.src, t.destLow, t.body)) = some (.idle, 0, 0, 0, []) ∧
    after .reset { holding .ready [0x10] with isNew := false, myAddress := 5, sentAt := 9 }
      (fun t => (t.typeSeen, t.isNew, t.myAddress, t.sentAt)) = some (false, true, 5, 9) := by
  decide

/-- O3. -/
theorem test_start :
    after (.start 0x43) (holding .overflow [1])
      (fun t => (t.state, t.msgType, t.typeSeen, t.src, t.body)) = some (.active, 0x43, true, 0, []) ∧
    result (.start 0x43) (holding .overflow [1]) = some [2] := by
  decide

/-- O2. -/
theorem test_start_zero :
    after (.start 0) (holding .active [1]) (fun t => (t.state, t.typeSeen, t.body)) = some (.idle, false, []) ∧
    result (.start 0) (holding .active [1]) = some [0] := by
  decide

/-- The last row of S6. -/
theorem test_feed_completes :
    after (.feed 0x3E) (holding .active [0x10, 0x20, 0x30, 0x7B]) (fun t => (t.state, t.body, t.isNew, t.outputs)) =
      some (.ready, [0x10, 0x20, 0x30], true, [⟨[], 3⟩]) := by
  decide +kernel

/-- The sixteenth body byte of F21. -/
theorem test_feed_overflows :
    after (.feed 0x10) (holding .active fifteen) (fun t => (t.state, t.body, t.outputs)) =
      some (.overflow, fifteen, [⟨[], 4⟩]) := by
  decide

/-- FEEDSEQ (30_encoding.md R82): the empty sequence in READY, and the last two bytes of F14. -/
theorem test_feedSeqOutput :
    feedSeqOutput [] (holding .ready [1]) = ⟨[], 3⟩ ∧
    feedSeqOutput [0x7B, 0x3E] (holding .active [0x10, 0x21, 0x30]) = ⟨[.crcMismatch 0x7B 0xBF], 5⟩ := by
  decide +kernel

/-- O11. -/
theorem test_setAddr :
    after (.setAddr 5) (holding .ready []) (fun t => (t.myAddress, t.state)) = some (5, .ready) ∧
    result (.setAddr 5) (holding .ready []) = some [0] := by
  decide

/-- O5, O4. -/
theorem test_setDest :
    after (.setDest 2 7) (holding .active []) (fun t => (t.destLow, t.destHigh)) = some (2, 7) ∧
    result (.setDest 2 7) (holding .active []) = some [1] ∧ result (.setDest 1 2) State.reset = some [0] ∧
    after (.setDest 1 2) State.reset (fun t => (t.destLow, t.destHigh)) = some (0, 0) := by
  decide

/-- O8, O9. -/
theorem test_append_boundary :
    after (.append 15) (holding .active (fifteen.take 14)) (fun t => (t.state, t.bodyLen)) = some (.active, 15) ∧
    after (.append 16) (holding .active fifteen) (fun t => (t.state, t.bodyLen)) = some (.overflow, 15) := by
  decide

/-- O6, O7. -/
theorem test_append_ignored :
    result (.append 9) State.reset = some [0] ∧
    after (.append 9) { holding .active [] with typeSeen := false } (fun t => (t.body, t.outputs)) =
      some ([], [⟨[], 2⟩]) := by
  decide

/-- T4. -/
theorem test_send :
    after .send { holding .active [] with msgType := 0x53, destLow := 2, destHigh := 7, myAddress := 9, now := 1000 }
      (fun t => (t.src, t.sentAt, t.dir, t.state, t.outputs)) =
        some (9, 1000, .rx, .active,
          [⟨[.dir .tx, .tx 0x3C, .tx 2, .tx 0x2D, .tx 7, .tx 9, .tx 0x3A, .tx 0x53, .tx 0xF6, .tx 0x3E, .flush,
             .dir .rx], 9⟩]) := by
  decide +kernel

/-- T7, T8. -/
theorem test_send_refused :
    after .send (holding .active [1]) (fun t => (t.src, t.outputs)) = some (0xFE, [⟨[], 0⟩]) ∧
    after .send { holding .overflow [1] with myAddress := 5 } (fun t => (t.src, t.outputs)) =
      some (0xFE, [⟨[], 0⟩]) := by
  decide

/-- O12. -/
theorem test_clearNew : after .clearNew (holding .ready []) (fun t => t.isNew) = some false := by
  decide

/-- Steps 12, 16 to 20 of PR1: each query against its field in the message of S6. -/
theorem test_queries :
    result .getState (holding .ready [0x10, 0x20, 0x30]) = some [3] ∧
    result .getType (holding .ready [0x10, 0x20, 0x30]) = some [0x43] ∧
    result .getSrc (holding .ready [0x10, 0x20, 0x30]) = some [0xFE] ∧
    result .getDestLo { holding .ready [] with destLow := 2, destHigh := 7 } = some [2] ∧
    result .getDestHi { holding .ready [] with destLow := 2, destHigh := 7 } = some [7] ∧
    result .getBodylen (holding .ready [0x10, 0x20, 0x30]) = some [3] := by
  decide

/-- O12, and steps 29 and 32 of PR1. -/
theorem test_statusQueries :
    result .getIsnew (holding .ready []) = some [1] ∧
    result .getIsnew { holding .ready [] with isNew := false } = some [0] ∧
    result .getSentat { holding .active [] with sentAt := 1000 } = some [1000] ∧
    result .getDir (holding .active []) = some [0] ∧
    result .getMyaddr { holding .active [] with myAddress := 5 } = some [5] := by
  decide

/-- O13. -/
theorem test_getBody :
    result (.getBody 0) (holding .ready [0x10, 0x20, 0x30]) = some [16] ∧
    result (.getBody 2) (holding .ready [0x10, 0x20, 0x30]) = some [48] ∧
    result (.getBody 3) (holding .ready [0x10, 0x20, 0x30]) = some [0] := by
  decide

/-- A6, A8, A10, A13, A17, A25. -/
theorem test_toMe :
    result .toMe { State.reset with destLow := 2, destHigh := 7, myAddress := 7 } = some [1] ∧
    result .toMe { State.reset with destLow := 2, destHigh := 7, myAddress := 8 } = some [0] ∧
    result .toMe { State.reset with destLow := 0xFF, destHigh := 0xFF, myAddress := 0 } = some [1] ∧
    result .toMe { State.reset with destLow := 2, destHigh := 0xFF, myAddress := 0 } = some [0] ∧
    result .toMe { State.reset with destLow := 7, destHigh := 2, myAddress := 7 } = some [0] ∧
    result .toMe { State.reset with destLow := 0x7F, destHigh := 0x80, myAddress := 0x80 } = some [1] := by
  decide

/-- A18, A23. -/
theorem test_toMaster :
    result .toMaster { State.reset with destLow := 0xFE, destHigh := 0xFE, myAddress := 5 } = some [1] ∧
    result .toMaster { State.reset with destLow := 1, destHigh := 0xFE, myAddress := 0xFE } = some [0] := by
  decide

/-- F11. -/
theorem test_byteSom :
    after .byteSom (holding .ready []) (fun t => (t.state, t.msgType, t.destLow, t.outputs)) =
      some (.header, 0, 0, [⟨[], 1⟩]) := by
  decide

/-- F14: one body byte corrupted. -/
theorem test_byteEom_mismatch :
    after .byteEom (holding .active [0x10, 0x21, 0x30, 0x7B]) (fun t => (t.state, t.body, t.outputs)) =
      some (.aborted, [0x10, 0x21, 0x30], [⟨[.crcMismatch 0x7B 0xBF], 5⟩]) := by
  decide +kernel

/-- F8: a type and no checksum; F3: a stray end byte in HEADER. -/
theorem test_byteEom_early :
    after .byteEom (holding .active []) (fun t => (t.state, t.outputs)) = some (.aborted, [⟨[], 5⟩]) ∧
    after .byteEom (inHeader [5]) (fun t => (t.state, t.hdrLen, t.outputs)) = some (.idle, 0, [⟨[], 0⟩]) := by
  decide

/-- H4, H8, H1. -/
theorem test_byteEoh :
    after .byteEoh (inHeader [2, 0x2D, 7, 9]) (fun t => (t.state, t.destLow, t.destHigh, t.src)) =
      some (.active, 2, 7, 9) ∧
    after .byteEoh (inHeader [5, 0x2D]) (fun t => (t.state, t.destLow, t.destHigh, t.src)) =
      some (.aborted, 0, 0, 0) ∧
    after .byteEoh (inHeader [5]) (fun t => (t.state, t.destLow, t.destHigh, t.src)) = some (.active, 5, 5, 0xFE) := by
  decide

/-- F12: the two header markers are data in ACTIVE. -/
theorem test_byteEoh_byteSep_data :
    after .byteEoh (holding .active []) (fun t => t.body) = some [0x3A] ∧
    after .byteSep (holding .active [0x3A]) (fun t => t.body) = some [0x3A, 0x2D] := by
  decide

/-- The second row of S7's header. -/
theorem test_byteSep_header : after .byteSep (inHeader [2]) (fun t => (t.hdr, t.hdrLen)) = some ([2, 0x2D], 2) := by
  decide

/-- F13: a type byte of 0; S8: the count of header bytes stops at 6. -/
theorem test_byteData :
    after (.byteData 0) { holding .active [] with msgType := 0, typeSeen := false }
      (fun t => (t.state, t.msgType, t.typeSeen, t.body)) = some (.active, 0, true, []) ∧
    after (.byteData 7) { inHeader [1, 2, 3, 4, 5] with hdrLen := 6 } (fun t => (t.hdr, t.hdrLen, t.outputs)) =
      some ([1, 2, 3, 4, 5], 6, [⟨[], 1⟩]) := by
  decide

/-! ### The invariants hold of the small states -/

theorem reset_inv : Inv State.reset :=
  ⟨by decide, by decide, rfl, by decide, by decide, by decide, by decide, by decide, by decide, by decide⟩

theorem inHeader_inv {bs : List Byte} (h : bs.length ≤ 5) : Inv (inHeader bs) :=
  have hlegal : paramsLegal Params.ref = true := by decide
  have hsent : 0 < 2 ^ 32 := by decide
  { params := hlegal
    memory := (memory_wf_iff _).2 ⟨Nat.lt_of_lt_of_le Nat.zero_lt_one (capacity_of_legal hlegal |> Nat.le_of_lt),
      (Nat.min_eq_left h).symm, Nat.le_succ_of_le h⟩
    dir := rfl
    idle := fun e => nomatch e
    header := fun _ => ⟨rfl, rfl, rfl⟩
    typeSeen := fun _ => rfl
    headerFields := fun _ => ⟨rfl, rfl, rfl⟩
    noType := fun _ => rfl
    ready := fun e => nomatch e
    sentAt := hsent }

/-- A header of more than five bytes: five stored, the count at 6. -/
theorem overlong_inv : Inv { inHeader [1, 2, 3, 4, 5] with hdrLen := 6 } :=
  ⟨by decide, by decide, rfl, by decide, by decide, by decide, by decide, by decide, by decide, by decide⟩

theorem issued_inv : Inv (issued (.command 0x30005) State.reset) :=
  ⟨by decide, by decide, rfl, by decide, by decide, by decide, by decide, by decide, by decide, by decide⟩

theorem holding_inv : Inv (holding .active fifteen) :=
  ⟨by decide, by decide, rfl, by decide, by decide, by decide, by decide, by decide, by decide, by decide⟩

/-! ### Witnesses: the hypotheses of each obligation, met together -/

theorem witness_encodings :
    paramsLegal Params.ref = true ∧ Instr.wellFormed Params.ref (.byteData 0x10) = true ∧
    Instr.wellFormed Params.ref (.setDest 0xFF 0xFF) = true ∧
    (∀ row ∈ commandRows, (0x90000 : CmdWord) &&& row.mask ≠ row.value) ∧
    (∀ row ∈ commandRows, (0x80D00 : CmdWord) &&& row.mask ≠ row.value) ∧
    9 ≤ (0x9 : BitVec 4).toNat ∧ 9 ≤ (0xF : BitVec 4).toNat ∧ 0x0D ≤ (0x0D : Byte).toNat ∧
    0x0D ≤ (0xFF : Byte).toNat ∧
    (issued (.command 0x90000) State.reset).inputs = ⟨.command 0x90000, 7, true⟩ :: [] ∧
    decodeCommand 0x90000 = .error (.reservedOp 9) := by
  decide

theorem witness_step :
    paramsLegal (issued (.wire 0x3C) State.reset).params = true ∧
    (issued (.wire 0x3C) State.reset).inputs = ⟨.wire 0x3C, 7, true⟩ :: [] ∧
    decode (issued (.wire 0x3C) State.reset).params (.wire 0x3C) = .ok .byteSom ∧ State.reset.inputs = [] := by
  decide

/-- Each required constraint of 00_scope.md R6 broken by itself, and the boundary values that are legal. -/
theorem witness_params :
    paramsLegal { Params.ref with SOM := 0x3A } = false ∧ paramsLegal { Params.ref with SOM := 0x3E } = false ∧
    paramsLegal { Params.ref with EOH := 0x3E } = false ∧ paramsLegal { Params.ref with SEP := 0x3C } = false ∧
    paramsLegal { Params.ref with SEP := 0x3A } = false ∧ paramsLegal { Params.ref with SEP := 0x3E } = false ∧
    paramsLegal { Params.ref with MASTER := 0xFF } = false ∧ paramsLegal { Params.ref with MASTER := 0x2C } = false ∧
    paramsLegal { Params.ref with ALL := 0x2C } = false ∧ paramsLegal { Params.ref with C := 1 } = false ∧
    paramsLegal { Params.ref with TSW := 0 } = false ∧ paramsLegal { Params.ref with MASTER := 0x2D } = true ∧
    paramsLegal { Params.ref with MASTER := 0 } = true ∧ paramsLegal { Params.ref with C := 2, TSW := 1 } = true := by
  decide

theorem witness_wireRows :
    decode State.reset.params (.wire 0x3C) = .ok .byteSom ∧ decode State.reset.params (.wire 0x3E) = .ok .byteEom ∧
    decode State.reset.params (.wire 0x3A) = .ok .byteEoh ∧ decode State.reset.params (.wire 0x2D) = .ok .byteSep ∧
    decode State.reset.params (.wire 5) = .ok (.byteData 5) := by
  decide

/-- SomRestartsFromAnyState, for both operations and from a terminal state. -/
theorem witness_som :
    fedByte (holding .ready [1]).params (.feed 0x3C) = some (holding .ready [1]).params.SOM ∧
    fedByte (holding .ready [1]).params .byteSom = some (holding .ready [1]).params.SOM := by
  decide

/-- TerminalStateIgnoresBytes, in each terminal state, with an end-of-message byte. -/
theorem witness_terminal :
    fedByte (holding .ready []).params .byteEom = some 0x3E ∧ 0x3E ≠ (holding .ready []).params.SOM ∧
    (holding .ready []).state = .ready ∧ (holding .overflow fifteen).state = .overflow ∧
    (holding .aborted []).state = .aborted := by
  decide

/-- StrayEndResetsToIdle in both states. -/
theorem witness_stray :
    Inv State.reset ∧
    paramsLegal (inHeader [5]).params = true ∧ fedByte (inHeader [5]).params .byteEom = some (inHeader [5]).params.EOM ∧
    (inHeader [5]).state = .header ∧ fedByte State.reset.params (.feed 0x3E) = some State.reset.params.EOM ∧
    State.reset.state = .idle :=
  ⟨reset_inv, by decide⟩

/-- IdleIgnoresOtherBytes, with the end-of-header byte. -/
theorem witness_idle :
    fedByte State.reset.params .byteEoh = some 0x3A ∧ 0x3A ≠ State.reset.params.SOM ∧ 0x3A ≠ State.reset.params.EOM ∧
    State.reset.state = .idle := by
  decide

/-- HeaderCollectsBytes, and the second clause of HeaderLengthIsChecked, with 4, 5 and 6 bytes counted. -/
theorem witness_header :
    fedByte (inHeader [1, 2, 3, 4]).params (.byteData 9) = some 9 ∧ 9 ≠ (inHeader [1, 2, 3, 4]).params.SOM ∧
    9 ≠ (inHeader [1, 2, 3, 4]).params.EOM ∧ 9 ≠ (inHeader [1, 2, 3, 4]).params.EOH ∧
    (inHeader [1, 2, 3, 4]).state = .header ∧ (inHeader [1, 2, 3, 4]).hdrLen < 5 ∧
    (inHeader [1, 2, 3, 4, 5]).hdrLen = 5 ∧ 5 < { inHeader [1, 2, 3, 4, 5] with hdrLen := 6 }.hdrLen := by
  decide

/-- The end-of-header obligations: the premises on the byte and the state, and the lengths 0, 1, 5 and 6. The invariants
hold of these states. -/
theorem witness_endOfHeader :
    Inv (inHeader []) ∧ Inv { inHeader [1, 2, 3, 4, 5] with hdrLen := 6 } ∧ Inv (inHeader [5]) ∧
    Inv (inHeader [2, 0x2D, 7, 9, 0x11]) ∧
    paramsLegal (inHeader []).params = true ∧ fedByte (inHeader []).params .byteEoh = some (inHeader []).params.EOH ∧
    fedByte (inHeader []).params (.feed 0x3A) = some (inHeader []).params.EOH ∧ (inHeader []).state = .header ∧
    (inHeader []).hdrLen = 0 ∧ 5 < { inHeader [1, 2, 3, 4, 5] with hdrLen := 6 }.hdrLen ∧
    1 ≤ (inHeader [5]).hdrLen ∧ headerFields (inHeader [5]).params (inHeader [5]).hdr = some (5, 5, 0xFE) ∧
    (inHeader [2, 0x2D, 7, 9, 0x11]).hdrLen ≤ 5 ∧
    headerFields (inHeader [2, 0x2D, 7, 9, 0x11]).params (inHeader [2, 0x2D, 7, 9, 0x11]).hdr = some (2, 7, 9) :=
  ⟨inHeader_inv (by decide), overlong_inv, inHeader_inv (by decide), inHeader_inv (by decide), by decide⟩

/-- HeaderShapes, one state for each of its nine clauses (H1 to H8, H5, H7); and MissingSourceIsMaster (H1, H3). -/
theorem witness_shapes :
    (∀ bs : List Byte, bs.length ≤ 5 → Inv (inHeader bs) ∧ (inHeader bs).state = .header ∧
      fedByte (inHeader bs).params .byteEoh = some (inHeader bs).params.EOH) ∧
    (inHeader [5]).hdr = [5] ∧ (inHeader [5, 9]).hdr = [5, 9] ∧ (9 : Byte) ≠ (inHeader [5, 9]).params.SEP ∧
    (inHeader [5, 0x2D]).hdr = [5, (inHeader [5, 0x2D]).params.SEP] ∧
    (inHeader [2, 0x2D, 7]).hdr = [2, (inHeader [2, 0x2D, 7]).params.SEP, 7] ∧ (inHeader [5, 9, 0x11]).hdr = [5, 9, 0x11] ∧
    (inHeader [2, 0x2D, 7, 9]).hdr = [2, (inHeader [2, 0x2D, 7, 9]).params.SEP, 7, 9] ∧
    (inHeader [5, 9, 0x2D, 7]).hdr = [5, 9, 0x2D, 7] ∧
    (inHeader [2, 0x2D, 7, 9, 0x11]).hdr = [2, (inHeader [2, 0x2D, 7, 9, 0x11]).params.SEP, 7, 9, 0x11] ∧
    (inHeader [2, 0x2D, 7, 9, 0x11]).hdrLen = 5 ∧ (inHeader [5, 9, 0x11, 0x12, 0x13]).hdr = [5, 9, 0x11, 0x12, 0x13] ∧
    (inHeader [5, 9, 0x11, 0x12, 0x13]).hdrLen = 5 :=
  ⟨fun _ h => ⟨inHeader_inv h, rfl, rfl⟩, by decide⟩

/-- FirstActiveByteIsType, with the type byte 0. -/
theorem witness_type :
    fedByte (holding .active []).params (.feed 0) = some 0 ∧ 0 ≠ (holding .active []).params.SOM ∧
    0 ≠ (holding .active []).params.EOM ∧ { holding .active [] with typeSeen := false }.state = .active ∧
    { holding .active [] with typeSeen := false }.typeSeen = false := by
  decide

/-- LaterActiveByteIsAppended and AppendExtendsTheBody at `C - 2` and `C - 1` bytes, and a state where APPEND is ignored. -/
theorem witness_body :
    fedByte (holding .active fifteen).params .byteSep = some 0x2D ∧ 0x2D ≠ (holding .active fifteen).params.SOM ∧
    0x2D ≠ (holding .active fifteen).params.EOM ∧ (holding .active fifteen).state = .active ∧
    (holding .active fifteen).typeSeen = true ∧
    (holding .active (fifteen.take 14)).bodyLen < (holding .active (fifteen.take 14)).params.C - 1 ∧
    (holding .active fifteen).params.C - 1 ≤ (holding .active fifteen).bodyLen ∧
    State.reset.state ≠ .active := by
  decide

/-- EndOfFrameChecksTheChecksum: the frame of S6, the same with a wrong checksum, and one with nothing buffered. -/
theorem witness_endOfFrame :
    fedByte (holding .active []).params .byteEom = some (holding .active []).params.EOM ∧
    paramsLegal (holding .active []).params = true ∧
    (holding .active [0x10, 0x20, 0x30, 0x7B]).body = [0x10, 0x20, 0x30] ++ [0x7B] ∧
    0x7B = crc8 ([5, 5, 0xFE, 0x43] ++ [0x10, 0x20, 0x30]) ∧ 0x7A ≠ crc8 ([5, 5, 0xFE, 0x43] ++ [0x10, 0x20, 0x30]) ∧
    (holding .active []).body = [] := by
  decide +kernel

/-- CapacityFromTheWire with `C - 1` and `C` bytes. -/
theorem witness_capacity :
    (holding .active []).state = .active ∧ (holding .active []).typeSeen = true ∧ (holding .active []).body = [] ∧
    (∀ x ∈ fifteen ++ [16], x ≠ (holding .active []).params.SOM ∧ x ≠ (holding .active []).params.EOM) ∧
    fifteen.length = (holding .active []).params.C - 1 ∧ (fifteen ++ [16]).length = (holding .active []).params.C := by
  decide

/-- SomForgetsTheMessage: two machines that hold different messages. -/
theorem witness_forget :
    (holding .ready [1]).params = (inHeader [2]).params ∧ (holding .ready [1]).myAddress = (inHeader [2]).myAddress ∧
    (holding .ready [1]).sentAt = (inHeader [2]).sentAt ∧ (holding .ready [1]).dir = (inHeader [2]).dir ∧
    (holding .ready [1]).state ≠ (inHeader [2]).state := by
  decide

/-- FeedSequenceIsItsSteps, with a byte in each of the two forms. -/
theorem witness_feedSequence :
    paramsLegal { State.reset with inputs := [⟨.wire 0x3C, 0, true⟩, ⟨.command 0x20005, 0, true⟩] }.params = true ∧
    List.Forall₂ (fun inp b => (inp.word = .wire b ∨ ∃ a, inp.word = .command (cmdWord 0x2 a b)) ∧
        inp.now = State.reset.now ∧ inp.flushDone = State.reset.flushDone)
      { State.reset with inputs := [⟨.wire 0x3C, 0, true⟩, ⟨.command 0x20005, 0, true⟩] }.inputs [0x3C, 5] :=
  ⟨by decide, .cons ⟨.inl rfl, rfl, rfl⟩ (.cons ⟨.inr ⟨0, by decide⟩, rfl, rfl⟩ .nil)⟩

/-- OneByteCorruptionAborts: F14 (a body byte), and the first row of S2 (the checksum byte). -/
theorem witness_corruption :
    (holding .active [0x10, 0x21, 0x30, 0x7B]).body = [0x10, 0x21, 0x30] ++ [0x7B] ∧
    [5, 5, 0xFE, 0x43] ++ [0x10, 0x21, 0x30] = ([5, 5, 0xFE, 0x43, 0x10] ++ 0x21 :: [0x30] : List Byte) ∧
    ((0x21 : Byte) ≠ 0x20 ∧ 0x7B = crc8 ([5, 5, 0xFE, 0x43, 0x10] ++ 0x20 :: [0x30])) ∧
    0x7A ≠ crc8 ([5, 5, 0xFE, 0x43, 0x10] ++ 0x20 :: [0x30]) := by
  decide +kernel

/-- AddressedToMe and AddressedToMaster: a state for each clause. -/
theorem witness_address :
    { State.reset with destLow := 0xFF }.destLow = State.reset.params.ALL ∧
    { State.reset with destLow := 2 }.destLow ≠ State.reset.params.ALL ∧
    { State.reset with destLow := 2 }.myAddress = 0 ∧ { State.reset with destLow := 2, myAddress := 2 }.myAddress ≠ 0 ∧
    { State.reset with destLow := 0xFE }.destLow = State.reset.params.MASTER ∧
    { State.reset with destLow := 0xFF }.destLow ≠ State.reset.params.MASTER := by
  decide

/-- The machine of `holding_inv` with an address; its 15 body bytes are the most an engine can hold. -/
theorem addressed_inv : Inv { holding .active fifteen with myAddress := 9 } :=
  ⟨by decide, by decide, rfl, by decide, by decide, by decide, by decide, by decide, by decide, by decide⟩

/-- The SEND obligations: a send in ACTIVE, one in READY, one without its preconditions, one whose flush hangs. -/
theorem witness_send :
    Inv { holding .active fifteen with myAddress := 9 } ∧
    { holding .active fifteen with myAddress := 9 }.state = .active ∧
    { holding .active fifteen with myAddress := 9 }.myAddress ≠ 0 ∧
    { holding .active fifteen with myAddress := 9 }.flushDone = true ∧
    { holding .ready [] with myAddress := 5 }.state = .ready ∧
    ¬ ((State.reset.state = .ready ∨ State.reset.state = .active) ∧ State.reset.myAddress ≠ 0) ∧
    (after .send { holding .ready [] with myAddress := 5 } (fun t => t.src)) = some 5 ∧
    { holding .ready [] with myAddress := 5, flushDone := false }.flushDone = false ∧
    (match exec .send { holding .ready [] with myAddress := 5, flushDone := false } with
      | .next _ => false
      | .fault _ => true
      | .refused _ => false) = true :=
  ⟨addressed_inv, by decide⟩

/-- RoundTrip at its capacity boundary, as T10: `C - 2` body bytes, to node 5, from the master; and for a range, as T4. -/
theorem witness_roundTrip :
    paramsLegal State.reset.params = true ∧ (holding .ready []).params = State.reset.params ∧
    (∀ x ∈ [5, 0x43] ++ fifteen.take 14 ++ [crc8 ([5, 5, 0xFE, 0x43] ++ fifteen.take 14)],
      x ≠ State.reset.params.SOM ∧ x ≠ State.reset.params.EOM) ∧
    (5 : Byte) ≠ State.reset.params.EOH ∧ (0xFE : Byte) ≠ State.reset.params.SEP ∧
    (fifteen.take 14).length ≤ State.reset.params.C - 2 ∧
    (∀ x ∈ [2, 7, 9, 0x53, crc8 [2, 7, 9, 0x53]], x ≠ State.reset.params.SOM ∧ x ≠ State.reset.params.EOM) ∧
    (∀ x ∈ ([2, 7, 9] : List Byte), x ≠ State.reset.params.EOH) := by
  decide +kernel

/-- StartBeginsAMessage, SetDestOnlyBeforeASend: both sides of each. -/
theorem witness_hostOps :
    (1 : Byte) ≠ 0 ∧ (holding .ready []).state = .ready ∧ (holding .active []).state = .active ∧
    (holding .overflow []).state ≠ .active ∧ (holding .overflow []).state ≠ .ready := by
  decide

/-- GetBodyReadsTheBuffer below, at and above `bodyLen`; RepeatedQueryAgrees. -/
theorem witness_getBody :
    (holding .ready [0x10]).body[(0 : Byte).toNat]? = some 0x10 ∧ (1 : Byte).toNat = (holding .ready [0x10]).bodyLen ∧
    (holding .ready [0x10]).bodyLen < (2 : Byte).toNat ∧ isQuery (.getBody 2) = true ∧ isQuery .getState = true ∧
    (after .getState (holding .ready [0x10]) fun t => t.body) = some [0x10] := by
  decide

/-- The statements about every operation that answers: each has a next state where it answers, `isNew` is cleared by
`CLEAR_NEW` and set again by `RESET`, and the state changes back to IDLE. -/
theorem witness_wholeMachine :
    Inv (issued (.command 0x30005) State.reset) ∧ Inv (holding .active fifteen) ∧
    (after .getBodylen (holding .active fifteen) fun t => t.bodyLen) = some 15 ∧
    (after .clearNew (holding .ready []) fun t => t.isNew) = some false ∧
    (after .reset { holding .ready [] with isNew := false } fun t => (t.isNew, t.state)) = some (true, .idle) ∧
    fedByte (holding .ready []).params .send = none ∧ State.reset.flushDone = true ∧
    (match step (issued (.command 0x30005) State.reset) with
      | .next t => some t.myAddress
      | .fault _ => none
      | .refused _ => none) = some 5 :=
  ⟨issued_inv, holding_inv, by decide⟩

end Sys2Proof.Tests
end

-- ==== Framing: the message reset, restarts, ignored and stray bytes (40_framing.md) ====
section
/-! PROOFS. The obligations of 40_framing.md on `RESET` and on the start-of-message, end-of-message and end-of-header
bytes. Each arm of `FEED` is taken from Laws/Framing.lean; the lemmas here add the state that a run of start bytes
leaves, and what the message reset changes in an IDLE engine whose invariants hold. -/

namespace Sys2Proof.Machine

/-! ### RESET and START 0 (40_framing.md R120) -/

theorem startMessage_zero (s : State) : startMessage 0 s = msgReset s := by
  rcases startMessage_cases 0 s with ⟨-, e⟩ | ⟨h, -⟩
  · exact e
  · exact absurd rfl h

theorem answers_reset (s : State) : answers .reset s [] 0 (cleared .idle s) :=
  ⟨s.bufferWrites + 1, by rw [← msgReset_eq]; rfl⟩

theorem exec_start_zero (s : State) : exec (.start 0) s = exec .reset s := by
  simp only [exec, execStart, execReset, startMessage_zero, msgReset_state, stateCode]

/-- Settles O11: the decoder ignores both operand bytes of code 0x0, and both operations are `msgReset`. -/
theorem resetClearsTheMessage : Obligations.ResetClearsTheMessage := by
  refine ⟨fun a b => ?_, fun s => ⟨answers_reset s, exec_start_zero s⟩⟩
  rw [decodeCommand_cmdWord]
  rfl

/-! ### Start-of-message bytes (40_framing.md R103) -/

/-- A start-of-message byte leaves the message reset in HEADER, whatever the state was. -/
theorem feedStep_som (s : State) :
    feedStep s.params.SOM s =
      { cleared .header s with bufferWrites := s.bufferWrites + 1, outputs := s.outputs ++ [⟨[], 1⟩] } := by
  rw [feedStep, feedByte_som, feedSom_eq]
  rfl

/-- Any positive number of start-of-message bytes leave the message reset in HEADER: all that grows with the number is
the record of outputs and the counter of buffer writes. -/
theorem feedSeq_replicate_som (s : State) (n : Nat) :
    feedSeq (List.replicate (n + 1) s.params.SOM) s =
      { cleared .header s with bufferWrites := s.bufferWrites + (n + 1),
                               outputs := s.outputs ++ List.replicate (n + 1) ⟨[], 1⟩ } := by
  induction n with
  | zero => exact feedStep_som s
  | succ n ih =>
    rw [List.replicate_succ' (a := s.params.SOM), feedSeq_append, ih, List.replicate_succ' (n := n + 1),
      ← List.append_assoc]
    exact feedStep_som { cleared .header s with
      bufferWrites := s.bufferWrites + (n + 1), outputs := s.outputs ++ List.replicate (n + 1) ⟨[], 1⟩ }

/-- Settles O13: the first clause is the start-of-message arm, which asks nothing of the state; the second compares the
states after `n + 1` bytes and after one, an induction on `n`. -/
theorem somRestartsFromAnyState : Obligations.SomRestartsFromAnyState := by
  refine ⟨fun s i hi => answers_of_feed hi (by rw [feedByte_som, feedSom_eq]), fun s n => ?_⟩
  have hone := feedSeq_replicate_som s 0
  rw [List.replicate_one] at hone
  rw [feedSeq_replicate_som s n, hone]
  simp only [sameEngine, and_self]

/-! ### Bytes in a terminal state (40_framing.md R104) -/

/-- In a terminal state a byte that does not restart the message records its output and nothing else. -/
theorem exec_fed_terminal {i : Instr} {s : State} {x : Byte} {e : EngineState} (hi : fedByte s.params i = some x)
    (hx : x ≠ s.params.SOM) (ht : isTerminal e = true) (hs : s.state = e) :
    exec i s = .next { s with outputs := s.outputs ++ [⟨[], stateCode e⟩] } := by
  subst hs
  exact exec_of_feed hi (feedByte_terminal hx ht)

/-- Settles O14: the three clauses are the terminal arm in its three states. -/
theorem terminalStateIgnoresBytes : Obligations.TerminalStateIgnoresBytes := fun _ _ _ hi hx =>
  ⟨exec_fed_terminal hi hx rfl, exec_fed_terminal hi hx rfl, exec_fed_terminal hi hx rfl⟩

/-! ### Stray end-of-message bytes (40_framing.md R105, R106) -/

/-- A stray end-of-message byte is the message reset. -/
theorem answers_strayEnd {i : Instr} {s : State} (hP : paramsLegal s.params = true)
    (hi : fedByte s.params i = some s.params.EOM) (hs : s.state = .idle ∨ s.state = .header) :
    answers i s [] 0 (cleared .idle s) := by
  obtain ⟨hmark, -⟩ := markers_of_legal hP
  exact answers_of_feed hi (by rw [feedByte_stray hmark hs, feedEomStray, msgReset_eq])

/-- No header byte is stored where the count of header bytes is 0 (10_state.md R32). -/
theorem hdr_eq_nil_of_inv {s : State} (hv : Inv s) (hl : s.hdrLen = 0) : s.hdr = [] := by
  obtain ⟨-, hlen, -⟩ := (memory_wf_iff s).1 hv.memory
  rw [hl] at hlen
  exact List.length_eq_zero_iff.1 hlen

/-- In IDLE the message is already clear (10_state.md R36 I5), so the message reset writes `isNew` alone. -/
theorem cleared_idle_of_inv {s : State} (hv : Inv s) (hs : s.state = .idle) :
    cleared .idle s = { s with isNew := true } := by
  obtain ⟨htype, hseen, hsrc, hlo, hhi, hbody, hlen⟩ := hv.idle hs
  have hhdr := hdr_eq_nil_of_inv hv hlen
  simp only [cleared, hs, htype, hseen, hsrc, hlo, hhi, hbody, hhdr, hlen]

/-- Settles O15: both states take the stray arm, and in IDLE the invariants turn the reset into a write of `isNew`. -/
theorem strayEndResetsToIdle : Obligations.StrayEndResetsToIdle := by
  intro s i hP hi
  refine ⟨fun hs => answers_strayEnd hP hi (.inr hs), fun hs => answers_strayEnd hP hi (.inl hs), fun hs hv => ?_⟩
  rw [← cleared_idle_of_inv hv hs]
  exact answers_strayEnd hP hi (.inl hs)

/-! ### The end-of-header byte (40_framing.md R109) -/

/-- The header parser leaves ACTIVE or ABORTED and does not write the header buffer (41_header.md R130). -/
theorem parseHeader_state_hdr (s : State) :
    ((parseHeader s).state = .active ∨ (parseHeader s).state = .aborted) ∧
      (parseHeader s).hdr = s.hdr ∧ (parseHeader s).hdrLen = s.hdrLen := by
  rcases parseHeader_cases s with e | ⟨_, _, _, -, -, -, e⟩ <;> rw [e]
  · exact ⟨.inr rfl, rfl, rfl⟩
  · exact ⟨.inl rfl, rfl, rfl⟩

/-- Settles O18: the end-of-header arm is the parser, whose two outcomes both keep the header buffer. -/
theorem endOfHeaderRunsParser : Obligations.EndOfHeaderRunsParser := by
  intro s i hP hs hi
  obtain ⟨-, hsom, heom, -⟩ := markers_of_legal hP
  exact ⟨answers_of_feed hi (feedByte_endOfHeader hsom heom hs), parseHeader_state_hdr s⟩

end Sys2Proof.Machine
end

-- ==== Header: the length check, the defaulted source, the entry to ACTIVE (41_header.md) ====
section
/-! PROOFS. The obligations of 41_header.md on the end-of-header byte. The parser itself is said once in Laws/Framing.lean;
the lemmas here say what the whole operation does with a header of a wrong length and with one that is parsed, what the
two headers without a source give, and that the count follows the stored bytes. -/

namespace Sys2Proof.Machine

/-! ### The end-of-header byte as an operation (40_framing.md R109) -/

/-- An end-of-header byte in HEADER runs the parser, emits nothing and answers the state code after it. -/
theorem exec_endOfHeader {i : Instr} {s : State} (hv : Inv s) (hs : s.state = .header)
    (hi : fedByte s.params i = some s.params.EOH) :
    exec i s = .next (respond [] (stateCode (parseHeader s).state) (parseHeader s)) := by
  obtain ⟨-, hsom, heom, -⟩ := markers_of_legal hv.params
  exact exec_of_feed hi (feedByte_endOfHeader hsom heom hs)

/-- An end-of-header byte after a header that is parsed stores the three fields, clears the body and enters ACTIVE
(41_header.md R136, R137). -/
theorem exec_endOfHeader_parsed {i : Instr} {s : State} {lo hi sr : Byte} (hv : Inv s) (hs : s.state = .header)
    (hfed : fedByte s.params i = some s.params.EOH) (h1 : 1 ≤ s.hdrLen) (h5 : s.hdrLen ≤ 5)
    (hf : headerFields s.params s.hdr = some (lo, hi, sr)) :
    exec i s = .next (respond [] 2 { s with
      state := .active, destLow := lo, destHigh := hi, src := sr, body := [], bufferWrites := s.bufferWrites + 1 }) := by
  rw [exec_endOfHeader hv hs hfed, parseHeader_parsed h1 h5 hf]
  rfl

/-! ### The length check (41_header.md R131) -/

/-- Collecting a header byte does not write the `state` register, whatever the count. -/
theorem hdrAppend_state (x : Byte) (s : State) : (hdrAppend x s).state = s.state := by
  rcases hdrAppend_cases x s with ⟨-, e⟩ | ⟨-, e⟩ | ⟨-, e⟩ <;> rw [e]
  rfl

/-- Settles O19: the parser's wrong-length branch writes `state` alone, and the fields it leaves are those the invariants
give in HEADER; a collected byte goes to `hdrAppend`, which has no way out of HEADER. -/
theorem headerLengthIsChecked : Obligations.HeaderLengthIsChecked := by
  refine ⟨fun s i hv hs hi hlen => ?_, fun s i x hs hi hsom heom heoh => ?_⟩
  · have hexec : exec i s = .next { s with state := .aborted, outputs := s.outputs ++ [⟨[], 5⟩] } := by
      rw [exec_endOfHeader hv hs hi, parseHeader_badLength hlen]
      rfl
    obtain ⟨htype, -, hbody⟩ := hv.header hs
    obtain ⟨hsrc, hlo, hhi⟩ := hv.headerFields hs
    exact ⟨hexec, hlo, hhi, hsrc, htype, List.length_eq_zero_iff.2 hbody⟩
  · exact ⟨_, exec_of_feed hi (feedByte_header hsom heom heoh hs), (hdrAppend_state x s).trans hs⟩

/-! ### A header without a source (41_header.md R135) -/

/-- Where fewer than five header bytes are stored, the count is their number (10_state.md R32). -/
theorem hdrLen_eq_length_of_inv {s : State} (hv : Inv s) (h : s.hdr.length < 5) : s.hdrLen = s.hdr.length := by
  obtain ⟨-, hlen, -⟩ := (memory_wf_iff s).1 hv.memory
  omega

theorem headerFields_single (P : Params) (lo : Byte) : headerFields P [lo] = some (lo, lo, P.MASTER) := rfl

theorem headerFields_range (P : Params) (lo hi : Byte) :
    headerFields P [lo, P.SEP, hi] = some (lo, hi, P.MASTER) := if_pos rfl

/-- Settles O21: both headers give the master address as the source, and the parser stores the three fields that the
checksum reads. -/
theorem missingSourceIsMaster : Obligations.MissingSourceIsMaster := by
  intro s i lo hi hv hs hfed hshape
  have hparsed : 1 ≤ s.hdrLen ∧ s.hdrLen ≤ 5 ∧ headerFields s.params s.hdr = some (lo, hi, s.params.MASTER) := by
    rcases hshape with ⟨hhdr, rfl⟩ | hhdr
    · have hlen : s.hdrLen = 1 := by simpa [hhdr] using hdrLen_eq_length_of_inv hv (by simp [hhdr])
      exact ⟨by omega, by omega, hhdr ▸ headerFields_single s.params hi⟩
    · have hlen : s.hdrLen = 3 := by simpa [hhdr] using hdrLen_eq_length_of_inv hv (by simp [hhdr])
      exact ⟨by omega, by omega, hhdr ▸ headerFields_range s.params lo hi⟩
  obtain ⟨h1, h5, hf⟩ := hparsed
  exact ⟨_, exec_endOfHeader_parsed hv hs hfed h1 h5 hf, rfl, rfl⟩

/-! ### The entry to ACTIVE (41_header.md R137) -/

/-- The first data byte in ACTIVE is taken as the type and does not enter the body (40_framing.md R110). -/
theorem feedStep_type {s : State} {x : Byte} (hx : x ≠ s.params.SOM) (hm : x ≠ s.params.EOM) (hs : s.state = .active)
    (ht : s.typeSeen = false) : (feedStep x s).msgType = x ∧ (feedStep x s).bodyLen = s.bodyLen := by
  rw [feedStep, feedByte_type hx hm hs ht]
  exact ⟨rfl, rfl⟩

/-- Settles O22: a parsed header clears the body and keeps `type` and `typeSeen`, which the invariants give as 0 in HEADER;
the next data byte therefore takes the type arm. -/
theorem parsedHeaderEntersActive : Obligations.ParsedHeaderEntersActive := by
  intro s i lo hi sr hv hs hfed h1 h5 hf
  obtain ⟨htype, hseen, -⟩ := hv.header hs
  exact ⟨_, exec_endOfHeader_parsed hv hs hfed h1 h5 hf, rfl, rfl, readBody_terminator _, htype, hseen,
    fun _ hsom heom => feedStep_type hsom heom rfl hseen⟩

end Sys2Proof.Machine
end

-- ==== Address: the comparison with the master address (42_address.md) ====
section
/-! PROOFS. The obligation of 42_address.md on `TO_MASTER`: its word, the predicate it asks, and the query as that
predicate's bit. -/

namespace Sys2Proof.Machine

/-- The query index is ignored (30_encoding.md R86). -/
theorem decodeCommand_toMaster (b : Byte) : decodeCommand (cmdWord 0x8 0x09 b) = .ok .toMaster := by
  rw [decodeCommand_cmdWord]
  rfl

theorem addressedToMaster_iff (s : State) : addressedToMaster s = true ↔ s.destLow = s.params.MASTER := beq_iff_eq

theorem exec_toMaster (s : State) :
    exec .toMaster s = .next { s with outputs := s.outputs ++ [⟨[], bitCode (addressedToMaster s)⟩] } := rfl

/-- Settles O36: the query answers the bit of `addressedToMaster`, which compares the low bound alone.
(The obligation's own name in lowerCamelCase is that predicate's.) -/
theorem addressedToMasterQuery : Obligations.AddressedToMaster := by
  refine ⟨decodeCommand_toMaster, fun s => ⟨fun heq => ?_, fun hne => ?_⟩⟩
  · rw [exec_toMaster, (addressedToMaster_iff s).2 heq]
    rfl
  · rw [exec_toMaster, Bool.eq_false_iff.2 (mt (addressedToMaster_iff s).1 hne)]
    rfl

end Sys2Proof.Machine
end

-- ==== Transmit: what SEND does without and with its preconditions (44_transmit.md) ====
section
/-! PROOFS. The obligations of 44_transmit.md on when `SEND` transmits and what it puts on the bus. The two ways in which
`SEND` answers are said once here, as equations; `execSend_cases` in Laws/Exec.lean says that there are no others. -/

namespace Sys2Proof.Machine

/-- Without its preconditions `SEND` is a no-op (44_transmit.md R182). -/
theorem exec_send_notReady {s : State} (h : ¬ ((s.state = .ready ∨ s.state = .active) ∧ s.myAddress ≠ 0)) :
    exec .send s = .next (respond [] 0 s) :=
  if_neg (mt (sendReady_iff s).1 h)

/-- A `SEND` that completes transmits the composed frame, the line asserted around it (44_transmit.md R180). The frame
is composed with the line at TX, which `compose` does not read. -/
theorem exec_send_completes {s : State} (hs : s.state = .ready ∨ s.state = .active) (ha : s.myAddress ≠ 0)
    (hf : s.flushDone = true) :
    exec .send s = .next (respond
      ([.dir .tx] ++ (compose { s with src := s.myAddress }).map .tx ++ [.flush, .dir .rx])
      (compose { s with src := s.myAddress }).length
      { s with src := s.myAddress, sentAt := s.now % 2 ^ s.params.TSW, dir := .rx }) := by
  have hready : sendReady s = true := (sendReady_iff s).2 ⟨hs, ha⟩
  simp only [exec, execSend, if_pos hready, if_pos hf, sendUpToFlush, List.append_assoc]
  rfl

/-- Every composed frame holds the six bytes that no field can leave out (44_transmit.md R196). -/
theorem six_le_compose_length (s : State) : 6 ≤ (compose s).length := by
  rw [compose_length]
  omega

/-- Settles O37: the result of a `SEND` that completes is the length of a composed frame. -/
theorem sendNeedsItsPreconditions : Obligations.SendNeedsItsPreconditions :=
  ⟨fun _ h => exec_send_notReady h,
    fun _ hs ha hf => ⟨_, _, _, exec_send_completes hs ha hf, rfl, six_le_compose_length _⟩⟩

/-- Settles O38: the frame written out is `compose` of the record once its source is the node's own address. -/
theorem sendTransmitsTheFrame : Obligations.SendTransmitsTheFrame :=
  fun _ hs ha hf => ⟨_, exec_send_completes hs ha hf, rfl, rfl, rfl⟩

end Sys2Proof.Machine
end

-- ==== Queries: what they answer and that they write nothing (45_host_ops.md) ====
section
/-! PROOFS. The obligation of 45_host_ops.md on the queries of the message fields. `exec_query` in Laws/Exec.lean says what
a query that answers leaves of the state; here it is shown that every query does answer, whatever the state. -/

namespace Sys2Proof.Machine

/-- Operation code 0x8 hands both operand bytes to the table of selectors (30_encoding.md R86). -/
theorem decodeCommand_query (sel idx : Byte) : decodeCommand (cmdWord 0x8 sel idx) = decodeQuery sel idx := by
  rw [decodeCommand_cmdWord]
  rfl

/-- A query may be issued in any state (45_host_ops.md R218): none faults and none is refused. -/
theorem exec_query_total {i : Instr} (hq : isQuery i = true) (s : State) : ∃ t, exec i s = .next t := by
  cases i
  case getState | getType | getSrc | getDestLo | getDestHi | getBodylen | getBody | getIsnew | toMe | toMaster |
      getSentat | getDir | getMyaddr =>
    exact ⟨_, rfl⟩
  case reset | start | feed | setAddr | setDest | append | send | clearNew | byteSom | byteEom | byteEoh | byteSep |
      byteData =>
    exact absurd hq Bool.false_ne_true

/-- A query is pure (45_host_ops.md R218): it answers, and all that it adds is an output without events. -/
theorem exec_query_pure {i : Instr} (hq : isQuery i = true) (s : State) :
    ∃ n, exec i s = .next { s with outputs := s.outputs ++ [⟨[], n⟩] } := by
  obtain ⟨t, ht⟩ := exec_query_total hq s
  obtain ⟨n, rfl⟩ := exec_query hq ht
  exact ⟨n, ht⟩

/-- Settles O49: the words are two rows of the selector table, each of the six meanings is `answer` of its field, and
purity is the case split over the thirteen queries. -/
theorem queriesReturnTheirFields : Obligations.QueriesReturnTheirFields :=
  ⟨fun b => ⟨decodeCommand_query 0x00 b, decodeCommand_query 0x03 b⟩,
    fun _ => ⟨rfl, rfl, rfl, rfl, rfl, rfl⟩,
    fun _ s hq => exec_query_pure hq s⟩

end Sys2Proof.Machine
end

-- ==== Encodings: command words, wire bytes, the rows of the opcode table (30_encoding.md) ====
section
/-! PROOFS. The obligations of 30_encoding.md. A command word is taken apart by `decodeCommand_cmdWord`; a wire byte
is decoded by the first row that matches, said once in `decodeWire_cases`. The opcode table is compared with the
decoder in two steps: the words of a row decode to its mnemonic, and every word lies in a row or is rejected. -/

namespace Sys2Proof.Machine

/-! ### The command words -/

/-- Settles O2: the three fields of the word reach the two tables, which do not look at an ignored field. -/
theorem commandWordFields : Obligations.CommandWordFields := by
  intro a b
  simp only [decodeCommand_cmdWord]
  exact ⟨rfl, rfl, rfl, rfl, rfl, rfl, rfl, rfl, rfl, rfl, rfl, rfl, rfl, rfl, rfl, rfl, rfl, rfl, rfl, rfl, rfl⟩

/-! ### The wire bytes (30_encoding.md R75) -/

theorem decodeWire_som (P : Params) : decodeWire P P.SOM = .byteSom := if_pos rfl

theorem decodeWire_eom {P : Params} (h : paramsLegal P = true) : decodeWire P P.EOM = .byteEom := by
  obtain ⟨h1, -⟩ := markers_of_legal h
  simp [decodeWire, h1]

theorem decodeWire_eoh {P : Params} (h : paramsLegal P = true) : decodeWire P P.EOH = .byteEoh := by
  obtain ⟨-, h1, h2, -⟩ := markers_of_legal h
  simp [decodeWire, h1, h2]

theorem decodeWire_sep {P : Params} (h : paramsLegal P = true) : decodeWire P P.SEP = .byteSep := by
  obtain ⟨-, -, -, h1, h2, h3⟩ := markers_of_legal h
  simp [decodeWire, h1, h2, h3]

theorem decodeWire_data {P : Params} {x : Byte} (h : P.plainByte x = true) : decodeWire P x = .byteData x := by
  obtain ⟨h1, h2, h3, h4⟩ := of_decide_eq_true h
  simp [decodeWire, h1, h2, h3, h4]

/-- Settles O1: a command is taken apart by `decodeCommand_cmdWord`; a wire row is the first one that matches, because
the markers of a legal record differ and a well-formed `BYTE_DATA` is none of them. -/
theorem decodeInvertsEncode : Obligations.DecodeInvertsEncode := by
  intro P i hP hwf
  cases i
  case byteSom => exact congrArg Except.ok (decodeWire_som P)
  case byteEom => exact congrArg Except.ok (decodeWire_eom hP)
  case byteEoh => exact congrArg Except.ok (decodeWire_eoh hP)
  case byteSep => exact congrArg Except.ok (decodeWire_sep hP)
  case byteData => exact congrArg Except.ok (decodeWire_data hwf)
  all_goals exact (decodeCommand_cmdWord _ _ _).trans rfl

/-- Everything the byte decoder can answer, in the order of priority of the wire rows. -/
theorem decodeWire_cases (P : Params) (b : Byte) :
    (b = P.SOM ∧ decodeWire P b = .byteSom) ∨ (b = P.EOM ∧ decodeWire P b = .byteEom) ∨
    (b = P.EOH ∧ decodeWire P b = .byteEoh) ∨ (b = P.SEP ∧ decodeWire P b = .byteSep) ∨
    (P.plainByte b = true ∧ decodeWire P b = .byteData b) := by
  by_cases h1 : b = P.SOM
  · exact .inl ⟨h1, if_pos h1⟩
  by_cases h2 : b = P.EOM
  · simp [decodeWire, ← h2, h1]
  by_cases h3 : b = P.EOH
  · simp [decodeWire, ← h3, h1, h2]
  by_cases h4 : b = P.SEP
  · simp [decodeWire, ← h4, h1, h2, h3]
  have hplain : P.plainByte b = true := decide_eq_true ⟨h1, h2, h3, h4⟩
  exact .inr (.inr (.inr (.inr ⟨hplain, decodeWire_data hplain⟩)))

/-- Whatever row is taken, it is well formed, hands over exactly the byte and is encoded as it. -/
theorem decodeWire_wellFormed (P : Params) (b : Byte) :
    (decodeWire P b).wellFormed P = true ∧ fedByte P (decodeWire P b) = some b ∧
      encode P (decodeWire P b) = .wire b := by
  rcases decodeWire_cases P b with ⟨rfl, e⟩ | ⟨rfl, e⟩ | ⟨rfl, e⟩ | ⟨rfl, e⟩ | ⟨hplain, e⟩ <;> rw [e]
  · exact ⟨rfl, rfl, rfl⟩
  · exact ⟨rfl, rfl, rfl⟩
  · exact ⟨rfl, rfl, rfl⟩
  · exact ⟨rfl, rfl, rfl⟩
  · exact ⟨hplain, rfl, rfl⟩

/-- Settles O5: by the row that the byte decoder takes. -/
theorem everyWireByteDecodes : Obligations.EveryWireByteDecodes :=
  fun P b => ⟨decodeWire P b, rfl, decodeWire_wellFormed P b⟩

/-- Settles O6: ten words evaluated. -/
theorem tableWordsDecode : Obligations.TableWordsDecode := by
  unfold Obligations.TableWordsDecode
  decide

/-! ### The rows of opcode_table.json -/

/-- A word lies in the row of an operation code exactly when it has that code. -/
theorem and_opMask_iff {op o : BitVec 4} {a b : Byte} :
    cmdWord op a b &&& 0xF0000#20 = cmdWord o 0 0 ↔ op = o := by
  rw [cmdWord_and_opMask, cmdWord_inj]
  simp

/-- A word lies in the row of a query exactly when it has code 0x8 and the row's selector. -/
theorem and_selectorMask_iff {op o : BitVec 4} {a sel b : Byte} :
    cmdWord op a b &&& 0xFFF00#20 = cmdWord o sel 0 ↔ op = o ∧ a = sel := by
  rw [cmdWord_and_selectorMask, cmdWord_inj]
  simp

/-- The words of a row decode to instructions of the row's mnemonic. -/
def DecodesToItsName (row : CommandRow) : Prop :=
  ∀ (op : BitVec 4) (a b : Byte), cmdWord op a b &&& row.mask = row.value →
    ∃ i, decodeFields op a b = .ok i ∧ mnemonic i = row.mnemonic

theorem decodesToItsName_of_op {name : String} (o : BitVec 4)
    (h : ∀ a b, ∃ i, decodeFields o a b = .ok i ∧ mnemonic i = name) :
    DecodesToItsName ⟨name, cmdWord o 0 0, 0xF0000⟩ := by
  intro op a b hsel
  rw [and_opMask_iff.1 hsel]
  exact h a b

theorem decodesToItsName_of_selector {name : String} (sel : Byte)
    (h : ∀ b, ∃ i, decodeFields 0x8 sel b = .ok i ∧ mnemonic i = name) :
    DecodesToItsName ⟨name, cmdWord 0x8 sel 0, 0xFFF00⟩ := by
  intro op a b hsel
  obtain ⟨rfl, rfl⟩ := and_selectorMask_iff.1 hsel
  exact h b

/-- The rows of 30_encoding.md R85 by their codes, then those of R86 by their selectors. -/
theorem commandRows_decodeToTheirNames : ∀ row ∈ commandRows, DecodesToItsName row :=
  List.forall_iff_forall_mem.1
    ⟨decodesToItsName_of_op 0x0 fun _ _ => ⟨_, rfl, rfl⟩, decodesToItsName_of_op 0x1 fun _ _ => ⟨_, rfl, rfl⟩,
     decodesToItsName_of_op 0x2 fun _ _ => ⟨_, rfl, rfl⟩, decodesToItsName_of_op 0x3 fun _ _ => ⟨_, rfl, rfl⟩,
     decodesToItsName_of_op 0x4 fun _ _ => ⟨_, rfl, rfl⟩, decodesToItsName_of_op 0x5 fun _ _ => ⟨_, rfl, rfl⟩,
     decodesToItsName_of_op 0x6 fun _ _ => ⟨_, rfl, rfl⟩, decodesToItsName_of_op 0x7 fun _ _ => ⟨_, rfl, rfl⟩,
     decodesToItsName_of_selector 0x00 fun _ => ⟨_, rfl, rfl⟩, decodesToItsName_of_selector 0x01 fun _ => ⟨_, rfl, rfl⟩,
     decodesToItsName_of_selector 0x02 fun _ => ⟨_, rfl, rfl⟩, decodesToItsName_of_selector 0x03 fun _ => ⟨_, rfl, rfl⟩,
     decodesToItsName_of_selector 0x04 fun _ => ⟨_, rfl, rfl⟩, decodesToItsName_of_selector 0x05 fun _ => ⟨_, rfl, rfl⟩,
     decodesToItsName_of_selector 0x06 fun _ => ⟨_, rfl, rfl⟩, decodesToItsName_of_selector 0x07 fun _ => ⟨_, rfl, rfl⟩,
     decodesToItsName_of_selector 0x08 fun _ => ⟨_, rfl, rfl⟩, decodesToItsName_of_selector 0x09 fun _ => ⟨_, rfl, rfl⟩,
     decodesToItsName_of_selector 0x0A fun _ => ⟨_, rfl, rfl⟩, decodesToItsName_of_selector 0x0B fun _ => ⟨_, rfl, rfl⟩,
     decodesToItsName_of_selector 0x0C fun _ => ⟨_, rfl, rfl⟩⟩

/-- No two rows share a mnemonic. -/
theorem commandRows_eq_of_mnemonic_eq :
    ∀ row ∈ commandRows, ∀ row' ∈ commandRows, row.mnemonic = row'.mnemonic → row = row' := by
  decide

/-- Each code below 0x8 has a row (30_encoding.md R85). -/
theorem opRow_of_lt : ∀ n < 8, ∃ row ∈ commandRows,
    row.mask = 0xF0000 ∧ row.value = cmdWord (BitVec.ofNat 4 n) 0 0 := by
  decide

/-- Each selector up to 0x0C has a row (30_encoding.md R86). -/
theorem selectorRow_of_lt : ∀ n < 13, ∃ row ∈ commandRows,
    row.mask = 0xFFF00 ∧ row.value = cmdWord 0x8 (BitVec.ofNat 8 n) 0 := by
  decide

/-! ### The reserved words (30_encoding.md R88) -/

theorem decodeFields_reserved {op : BitVec 4} (a b : Byte) (h : 9 ≤ op.toNat) :
    decodeFields op a b = .error (.reservedOp op) := by
  unfold decodeFields
  split
  case h_10 => rfl
  all_goals omega

theorem decodeQuery_reserved {sel : Byte} (idx : Byte) (h : 0x0D ≤ sel.toNat) :
    decodeQuery sel idx = .error (.reservedSelector sel) := by
  unfold decodeQuery
  split
  case h_14 => rfl
  all_goals omega

/-- Every word lies in a row or is rejected. -/
theorem commandRow_or_rejected (op : BitVec 4) (a b : Byte) :
    (∃ row ∈ commandRows, cmdWord op a b &&& row.mask = row.value) ∨ ∃ r, decodeFields op a b = .error r := by
  rcases Nat.lt_trichotomy op.toNat 8 with hop | hop | hop
  · obtain ⟨row, hrow, hmask, hvalue⟩ := opRow_of_lt op.toNat hop
    exact .inl ⟨row, hrow, by rw [hmask, hvalue]; exact and_opMask_iff.2 (by simp)⟩
  · obtain rfl : op = 0x8 := BitVec.eq_of_toNat_eq hop
    by_cases hsel : a.toNat < 13
    · obtain ⟨row, hrow, hmask, hvalue⟩ := selectorRow_of_lt a.toNat hsel
      exact .inl ⟨row, hrow, by rw [hmask, hvalue]; exact and_selectorMask_iff.2 (by simp)⟩
    · exact .inr ⟨_, decodeQuery_reserved b (by omega)⟩
  · exact .inr ⟨_, decodeFields_reserved a b hop⟩

/-- Settles O3: a row's words decode to its mnemonic; conversely the row that an accepted word lies in is the only one
of that mnemonic. -/
theorem opcodeTableSelects : Obligations.OpcodeTableSelects := by
  intro cw
  rw [← cmdWord_fields cw]
  simp only [decodeCommand_cmdWord]
  generalize cwOp cw = op, cwA cw = a, cwB cw = b
  refine ⟨fun row hrow => ⟨commandRows_decodeToTheirNames row hrow op a b, ?_⟩, fun hnone => ?_⟩
  · rintro ⟨i, hi, hname⟩
    rcases commandRow_or_rejected op a b with ⟨row', hrow', hsel⟩ | ⟨r, hr⟩
    · obtain ⟨i', hi', hname'⟩ := commandRows_decodeToTheirNames row' hrow' op a b hsel
      obtain rfl : i = i' := Except.ok.inj (hi.symm.trans hi')
      rwa [commandRows_eq_of_mnemonic_eq row hrow row' hrow' (hname.symm.trans hname')]
    · exact absurd (hi.symm.trans hr) (by simp)
  · rcases commandRow_or_rejected op a b with ⟨row, hrow, hsel⟩ | hrej
    · exact absurd hsel (hnone row hrow)
    · exact hrej

/-! ### A step on a rejected word -/

theorem step_rejected {s : State} {inp : Input} {rest : List Input} {r : Reject} (hP : paramsLegal s.params = true)
    (hin : s.inputs = inp :: rest) (hr : decode s.params inp.word = .error r) : step s = .refused (refusalOf r) := by
  simp only [step, fetch, hP, hin, hr, if_true]

/-- Settles O4: a code or a selector above the tables falls to their last line, and the fetch turns the rejection into
a refusal. -/
theorem reservedWordsRefused : Obligations.ReservedWordsRefused := by
  refine ⟨fun op a b h => ?_, fun sel idx h => ?_, fun s cw n f rest r hP hin hr => step_rejected hP hin hr,
    fun idx => ?_⟩
  · rw [decodeCommand_cmdWord, decodeFields_reserved a b h]
  · rw [decodeCommand_query, decodeQuery_reserved idx h]
  · rw [decodeCommand_query]
    rfl

end Sys2Proof.Machine
end

-- ==== Transmit: what SEND leaves, its result, and the flush that hangs (44_transmit.md) ====
section
/-! PROOFS. The obligations of 44_transmit.md on a `SEND` that transmits, from the equation `exec_send_completes` and
from its counterpart for a flush that never completes. -/

namespace Sys2Proof.Machine

/-- A `SEND` whose flush never completes stops with the line asserted (44_transmit.md R191). The frame is composed
with the line at TX, which `compose` does not read. -/
theorem exec_send_hangs {s : State} (hs : s.state = .ready ∨ s.state = .active) (ha : s.myAddress ≠ 0)
    (hf : s.flushDone = false) :
    exec .send s = .fault (.flushNeverCompleted (sendUpToFlush (compose { s with src := s.myAddress }))) := by
  have hready : sendReady s = true := (sendReady_iff s).2 ⟨hs, ha⟩
  simp only [exec, execSend, if_pos hready, hf, Bool.false_eq_true, if_false]
  rfl

/-- Settles O39: read off the equation of a `SEND` that completes. -/
theorem sendKeepsTheMessage : Obligations.SendKeepsTheMessage :=
  fun _ hs ha hf => ⟨_, exec_send_completes hs ha hf⟩

/-- A body within its capacity gives a frame of at most `C + 8` bytes (44_transmit.md R196). -/
theorem compose_length_le {s : State} (hbody : s.bodyLen < s.params.C) : (compose s).length ≤ s.params.C + 8 := by
  rw [compose_length]
  split <;> split <;> omega

/-- Settles O40: the result is the length of the composed frame, and the invariants bound the body. -/
theorem sendResultIsTheFrameLength : Obligations.SendResultIsTheFrameLength := by
  intro s hs ha hf hv
  obtain ⟨hbody, -⟩ := (memory_wf_iff s).1 hv.memory
  exact ⟨_, _, _, exec_send_completes hs ha hf, rfl, compose_length _, six_le_compose_length _, compose_length_le hbody⟩

/-- Settles O41: the branch of `SEND` in which the flush does not complete. -/
theorem sendHangsWithoutFlush : Obligations.SendHangsWithoutFlush := fun _ hs ha hf => exec_send_hangs hs ha hf

end Sys2Proof.Machine
end

-- ==== Steps: the outcomes of an operation and of a step, power-on (00_scope.md, 10_state.md, 60_exceptions.md) ====
section
/-! PROOFS. The obligations on a step of the machine: which operations answer, what the fetch hands to `exec`, when
the parameter record is refused; and the state after power-on, which meets the invariants. -/

namespace Sys2Proof.Machine

/-! ### Every operation answers (60_exceptions.md section 1) -/

/-- Every operation answers, but for a `SEND` whose flush never completes (60_exceptions.md R240, 44_transmit.md
R191). -/
theorem exec_next_or_hangs (i : Instr) (s : State) :
    (∃ t, exec i s = .next t) ∨ (i = .send ∧ s.flushDone = false ∧ ∃ f, exec i s = .fault f) := by
  cases i
  case send =>
    by_cases hready : (s.state = .ready ∨ s.state = .active) ∧ s.myAddress ≠ 0
    · obtain ⟨hs, ha⟩ := hready
      cases hf : s.flushDone with
      | true => exact .inl ⟨_, exec_send_completes hs ha hf⟩
      | false => exact .inr ⟨rfl, rfl, _, exec_send_hangs hs ha hf⟩
    · exact .inl ⟨_, exec_send_notReady hready⟩
  case setDest lo hi =>
    simp only [exec, execSetDest]
    split
    · exact .inl ⟨_, rfl⟩
    · exact .inl ⟨_, rfl⟩
  all_goals exact .inl ⟨_, rfl⟩

theorem exec_ne_refused (i : Instr) (s : State) (r : Refusal) : exec i s ≠ .refused r := by
  rcases exec_next_or_hangs i s with ⟨t, ht⟩ | ⟨-, -, f, ht⟩ <;> rw [ht] <;> exact nofun

/-- Settles O53: the one operation that does not answer is a `SEND` whose flush hangs, and it faults. -/
theorem everyOperationAnswers : Obligations.EveryOperationAnswers := by
  refine fun i s => ⟨fun hdone => ?_, exec_ne_refused i s, fun f hf => ?_⟩ <;>
    rcases exec_next_or_hangs i s with ⟨t, ht⟩ | ⟨hi, hflush, g, -⟩
  · exact ⟨t, ht⟩
  · exact absurd (hdone.symm.trans hflush) nofun
  · exact absurd (ht.symm.trans hf) nofun
  · exact ⟨hi, hflush⟩

/-! ### Steps -/

theorem step_run {s : State} {inp : Input} {rest : List Input} {i : Instr} (hP : paramsLegal s.params = true)
    (hin : s.inputs = inp :: rest) (hi : decode s.params inp.word = .ok i) :
    step s = exec i (takeInput inp rest s) := by
  simp only [step, fetch, hP, hin, hi, if_true]

theorem step_idle {s : State} (hP : paramsLegal s.params = true) (hin : s.inputs = []) : step s = .next s := by
  simp only [step, fetch, hP, hin, if_true]

theorem step_illegal {s : State} (hP : ¬ paramsLegal s.params = true) : step s = .refused .illegalParams := by
  simp only [step, fetch, hP, Bool.false_eq_true, if_false]

/-- Settles O7: with the operation decoded, the fetch hands `exec` the state with the input consumed. -/
theorem stepRunsTheDecodedOperation : Obligations.StepRunsTheDecodedOperation :=
  fun _ _ _ _ hP hin hi => step_run hP hin hi

/-- Settles O8: the fetch of an empty queue. -/
theorem idleStepHoldsState : Obligations.IdleStepHoldsState := fun _ hP hin => step_idle hP hin

theorem refusalOf_ne_illegalParams (r : Reject) : refusalOf r ≠ .illegalParams := by
  cases r <;> simp [refusalOf]

/-- Everything a step under a legal record can do: idle, run the operation it decodes, refuse the word it rejects. -/
theorem step_cases {s : State} (hP : paramsLegal s.params = true) :
    (s.inputs = [] ∧ step s = .next s) ∨
    ∃ inp rest, s.inputs = inp :: rest ∧
      ((∃ i, decode s.params inp.word = .ok i ∧ step s = exec i (takeInput inp rest s)) ∨
       ∃ r, decode s.params inp.word = .error r ∧ step s = .refused (refusalOf r)) := by
  cases hin : s.inputs with
  | nil => exact .inl ⟨rfl, step_idle hP hin⟩
  | cons inp rest =>
    refine .inr ⟨inp, rest, rfl, ?_⟩
    cases hd : decode s.params inp.word with
    | ok i => exact .inl ⟨i, rfl, step_run hP hin hd⟩
    | error r => exact .inr ⟨r, rfl, step_rejected hP hin hd⟩

theorem step_refused_illegalParams_iff (s : State) :
    step s = .refused .illegalParams ↔ ¬ paramsLegal s.params = true := by
  refine ⟨fun h hP => ?_, step_illegal⟩
  rcases step_cases hP with ⟨-, e⟩ | ⟨inp, rest, -, ⟨i, -, e⟩ | ⟨r, -, e⟩⟩ <;> rw [e] at h
  · exact nomatch h
  · exact exec_ne_refused i _ _ h
  · exact refusalOf_ne_illegalParams r (Host.Outcome.refused.inj h)

/-- Settles O9: an illegal record is refused at once; under a legal one no step has this refusal, since `exec` refuses
nothing and a rejected word is refused by another name. -/
theorem requiredParametersEnforced : Obligations.RequiredParametersEnforced := by
  intro s
  rw [step_refused_illegalParams_iff, paramsLegal, decide_eq_true_iff]

/-- Settles O10: every field is read off the record; the terminator is the read at `bodyLen`. -/
theorem powerOnState : Obligations.PowerOnState :=
  ⟨fun _ => ⟨rfl, rfl, rfl, rfl, rfl, rfl, rfl, rfl, readBody_terminator _, rfl, rfl, rfl, rfl, rfl, rfl⟩, rfl⟩

/-- Settles O12: the decoded row hands over the byte, and every operation that hands it over is `FEED` of it. -/
theorem wireRowIsFeed : Obligations.WireRowIsFeed := by
  intro s x i hi
  obtain ⟨-, hfed, -⟩ := decodeWire_wellFormed s.params x
  rw [← Except.ok.inj hi, exec_fedByte hfed]
  rfl

theorem powerOn_inv {P : Params} (hP : paramsLegal P = true) : Inv (State.powerOn P) where
  params := hP
  memory := powerOn_memory_wf hP
  dir := rfl
  idle _ := ⟨rfl, rfl, rfl, rfl, rfl, rfl, rfl⟩
  header := nofun
  typeSeen _ := rfl
  headerFields := nofun
  noType _ := rfl
  ready := nofun
  sentAt := Nat.two_pow_pos P.TSW

/-- Settles O55: each invariant is read off the power-on record. -/
theorem powerOnMeetsInvariants : Obligations.PowerOnMeetsInvariants :=
  ⟨fun _ hP => powerOn_inv hP, powerOn_inv (by decide)⟩

end Sys2Proof.Machine
end

-- ==== CRC: the table, the residue, bijectivity, one corrupted byte (43_crc8.md) ====
section
/-! PROOFS. The obligations of 43_crc8.md. All but the table rest on one fact: the update is injective in each of its
arguments (`crcShifts_injective` in Laws/Crc.lean). -/

namespace Sys2Proof.Machine

/-- The table of 43_crc8.md R162, row by row, is the eight bit steps from every index. -/
theorem crcTable_rows :
    crcTableLow ++ crcTableHigh = (List.range 256).map fun n => crcShifts 8 (BitVec.ofNat 8 n) := by
  decide +kernel

theorem crcTable_eq_crcShifts (v : Byte) : crcTable v = crcShifts 8 v := by
  have hv : v.toNat < 256 := v.isLt
  simp [crcTable, crcTable_rows, hv]

/-- Settles O30: the update is eight steps from the xor of its arguments, and so is the table's entry. -/
theorem crcTableForm : Obligations.CrcTableForm := fun c b => (crcTable_eq_crcShifts (c ^^^ b)).symm

/-- Settles O31: the last update is at the xor of the checksum with itself, and zero is a fixed point of the steps. -/
theorem crcResidueIsZero : Obligations.CrcResidueIsZero := by
  intro m
  rw [crc8_concat, crc8Update_eq, BitVec.xor_self]
  exact crcShifts_zero 8

theorem crc8Update_injective_left (b : Byte) : Function.Injective fun c => crc8Update c b :=
  fun _ _ h => (BitVec.xor_left_inj b).1 (crcShifts_injective 8 h)

theorem crc8Update_injective_right (c : Byte) : Function.Injective fun b => crc8Update c b :=
  fun _ _ h => (BitVec.xor_right_inj c).1 (crcShifts_injective 8 h)

/-- Settles O32: injective in each argument, and a byte has finitely many values. -/
theorem crcUpdateIsBijective : Obligations.CrcUpdateIsBijective :=
  ⟨fun b => Finite.injective_iff_bijective.1 (crc8Update_injective_left b),
    fun c => Finite.injective_iff_bijective.1 (crc8Update_injective_right c)⟩

/-- Hashing the same bytes from two different values leaves two different values (43_crc8.md R170). -/
theorem foldl_crc8Update_injective (m : List Byte) : Function.Injective fun c => m.foldl crc8Update c := by
  induction m with
  | nil => exact fun _ _ h => h
  | cons b m ih => exact fun _ _ h => crc8Update_injective_left b (ih h)

/-- Two messages that differ in exactly one byte have different checksums (43_crc8.md R170). -/
theorem crc8_ne_of_one_byte (pre post : List Byte) {x y : Byte} (h : x ≠ y) :
    crc8 (pre ++ x :: post) ≠ crc8 (pre ++ y :: post) := by
  intro heq
  simp only [crc8, List.foldl_append, List.foldl_cons] at heq
  exact h (crc8Update_injective_right _ (foldl_crc8Update_injective post heq))

/-- Settles O34: eight short messages evaluated. -/
theorem crcKnownValues : Obligations.CrcKnownValues := by
  unfold Obligations.CrcKnownValues
  decide +kernel

end Sys2Proof.Machine
end

-- ==== Framing and header: one received byte in each state (40_framing.md, 41_header.md) ====
section
/-! PROOFS. The obligations on a single received byte: the arm it takes is a lemma of Laws/Framing.lean, and what that
arm's shared operation does is a lemma of Laws/Ops.lean. The header shapes are the three forms that `headerFields`
reads. -/

namespace Sys2Proof.Machine

/-! ### From an arm to the operation -/

/-- The next state of an operation that hands over a byte, its result read off the state that its arm leaves. -/
theorem exec_of_feed_state {i : Instr} {s u : State} {x : Byte} {evs : List Event} {e : EngineState}
    (hi : fedByte s.params i = some x) (h : feedByte x s = (u, evs)) (hu : u.state = e) :
    exec i s = .next (respond evs (stateCode e) u) := by
  rw [← hu]
  exact exec_of_feed hi h

/-- The same, whatever the counter of buffer writes is. -/
theorem answers_of_feed_state {i : Instr} {s u : State} {x : Byte} {evs : List Event} {e : EngineState} {k : Nat}
    (hi : fedByte s.params i = some x) (h : feedByte x s = ({ u with bufferWrites := k }, evs)) (hu : u.state = e) :
    answers i s evs (stateCode e) u :=
  ⟨k, exec_of_feed_state hi h hu⟩

/-! ### IDLE and HEADER -/

/-- Settles O16: the IDLE arm of `FEED`. -/
theorem idleIgnoresOtherBytes : Obligations.IdleIgnoresOtherBytes :=
  fun _ _ _ hi hsom heom hs => exec_of_feed_state hi (feedByte_idle hsom heom hs) hs

/-- Settles O17: the three clauses are the three cases of the saturating append. -/
theorem headerCollectsBytes : Obligations.HeaderCollectsBytes := by
  intro s i x hi hsom heom heoh hs
  have harm := feedByte_header hsom heom heoh hs
  rcases hdrAppend_cases x s with ⟨hlt, e⟩ | ⟨heq, e⟩ | ⟨hgt, e⟩ <;> rw [e] at harm
  · exact ⟨fun _ => answers_of_feed_state hi harm hs, fun h => by omega, fun h => by omega⟩
  · exact ⟨fun h => by omega, fun _ => answers_of_feed_state (u := { s with hdrLen := 6 }) hi harm hs,
      fun h => by omega⟩
  · exact ⟨fun h => by omega, fun h => by omega, fun _ => answers_of_feed_state hi harm hs⟩

/-! ### Header shapes -/

/-- The range form: the separator at position 1 and a byte after it (41_header.md R132, R134, R135). -/
theorem headerFields_range_src (P : Params) (lo hi : Byte) (rest : List Byte) :
    headerFields P (lo :: P.SEP :: hi :: rest) = some (lo, hi, rest.headD P.MASTER) := if_pos rfl

/-- The range form without its high bound (41_header.md R133). -/
theorem headerFields_noHigh (P : Params) (lo : Byte) : headerFields P [lo, P.SEP] = none := if_pos rfl

/-- The single form: the second byte is the source and the others are ignored (41_header.md R134). -/
theorem headerFields_single_src {P : Params} {b : Byte} (h : b ≠ P.SEP) (lo : Byte) (rest : List Byte) :
    headerFields P (lo :: b :: rest) = some (lo, lo, b) := if_neg h

/-- A header of one to five stored bytes, with no sixth byte counted, is parsed into the fields it gives. -/
theorem answers_endOfHeader_parsed {i : Instr} {s : State} {a lo hi sr : Byte} {l : List Byte} (hv : Inv s)
    (hs : s.state = .header) (hfed : fedByte s.params i = some s.params.EOH) (hhdr : s.hdr = a :: l)
    (hlen : l.length < 4 ∨ s.hdrLen = 5) (hf : headerFields s.params (a :: l) = some (lo, hi, sr)) :
    answers i s [] 2 { s with state := .active, destLow := lo, destHigh := hi, src := sr, body := [] } := by
  have hcount : 1 ≤ s.hdrLen ∧ s.hdrLen ≤ 5 := by
    rcases hlen with hlt | heq
    · have hstored : s.hdr.length = l.length + 1 := by rw [hhdr, List.length_cons]
      have := hdrLen_eq_length_of_inv hv (by omega)
      omega
    · omega
  exact ⟨_, exec_endOfHeader_parsed hv hs hfed hcount.1 hcount.2 (hhdr ▸ hf)⟩

/-- Settles O20: each shape is one of the forms of `headerFields`, and its length is within the parser's bounds. -/
theorem headerShapes : Obligations.HeaderShapes := by
  intro s i a b c d e hv hs hfed
  have parsed {a lo hi sr : Byte} {l : List Byte} (hhdr : s.hdr = a :: l) (hlen : l.length < 4 ∨ s.hdrLen = 5)
      (hf : headerFields s.params (a :: l) = some (lo, hi, sr)) :=
    answers_endOfHeader_parsed hv hs hfed hhdr hlen hf
  refine ⟨fun h => ?_, fun h hb => ?_, fun h => ?_, fun h => ?_, fun h hb => ?_, fun h => ?_, fun h hb => ?_,
    fun h h5 => ?_, fun h h5 hb => ?_⟩
  · exact parsed h (.inl (by simp)) (headerFields_single _ a)
  · exact parsed h (.inl (by simp)) (headerFields_single_src hb a [])
  · rw [exec_endOfHeader hv hs hfed, parseHeader_malformed (h ▸ headerFields_noHigh s.params a)]
    rfl
  · exact parsed h (.inl (by simp)) (headerFields_range _ a c)
  · exact parsed h (.inl (by simp)) (headerFields_single_src hb a [c])
  · exact parsed h (.inl (by simp)) (headerFields_range_src _ a c [d])
  · exact parsed h (.inl (by simp)) (headerFields_single_src hb a [c, d])
  · exact parsed h (.inr h5) (headerFields_range_src _ a c [d, e])
  · exact parsed h (.inr h5) (headerFields_single_src hb a [c, d, e])

/-! ### ACTIVE -/

/-- Settles O23: the type arm of `FEED`. -/
theorem firstActiveByteIsType : Obligations.FirstActiveByteIsType :=
  fun _ _ _ hi hsom heom hs ht => exec_of_feed_state hi (feedByte_type hsom heom hs ht) hs

/-- Settles O24: the body arm of `FEED` below and at the bound of `bodyAppend`. -/
theorem laterActiveByteIsAppended : Obligations.LaterActiveByteIsAppended := by
  intro s i x hi hsom heom hs ht
  have harm := feedByte_body hsom heom hs ht
  refine ⟨fun hlt => ?_, fun hge => ?_⟩
  · rw [bodyAppend_fits x hlt] at harm
    refine ⟨answers_of_feed_state hi harm hs, fun t h => readBody_append ?_⟩
    rw [exec_of_feed hi harm] at h
    cases h
    rfl
  · rw [bodyAppend_full x hge] at harm
    exact exec_of_feed_state hi harm rfl

/-- Settles O25: the three clauses are the branches of the end-of-frame check. -/
theorem endOfFrameChecksTheChecksum : Obligations.EndOfFrameChecksTheChecksum := by
  intro s i b rx hP hs hi
  obtain ⟨hmark, -⟩ := markers_of_legal hP
  have harm := feedByte_endOfFrame hmark hs
  refine ⟨fun hb heq => ?_, fun hb hne => ?_, fun hb => ?_⟩
  · rw [feedEomActive_concat hb, if_pos heq] at harm
    exact answers_of_feed hi harm
  · rw [feedEomActive_concat hb, if_neg hne] at harm
    exact answers_of_feed hi harm
  · rw [feedEomActive_empty hb] at harm
    exact exec_of_feed_state hi harm rfl

/-- Settles O33: either way the popped byte is not the checksum of what was received, so the check reports the
mismatch. -/
theorem oneByteCorruptionAborts : Obligations.OneByteCorruptionAborts := by
  intro s i b pre post x y rx hP hs hi hb hmsg hbad
  have hne : rx ≠ crc8 (pre ++ x :: post) := by
    rcases hbad with ⟨hxy, rfl⟩ | hne
    · exact crc8_ne_of_one_byte pre post hxy.symm
    · exact hne
  rw [← hmsg] at hne ⊢
  obtain ⟨-, hmismatch, -⟩ := endOfFrameChecksTheChecksum s i b rx hP hs hi
  exact hmismatch hb hne

end Sys2Proof.Machine
end

-- ==== Host operations: START, SET_ADDR, SET_DEST, APPEND, CLEAR_NEW (45_host_ops.md) ====
section
/-! PROOFS. The obligations of 45_host_ops.md on the operations that write the record. -/

namespace Sys2Proof.Machine

/-! ### START (45_host_ops.md R211) -/

/-- `START t` with a type is an ACTIVE message of that type, everything else as the message reset leaves it. -/
theorem startMessage_type {t : Byte} (ht : t ≠ 0) (s : State) :
    startMessage t s =
      { cleared .active s with msgType := t, typeSeen := true, bufferWrites := s.bufferWrites + 1 } := by
  rcases startMessage_cases t s with ⟨h, -⟩ | ⟨-, e⟩
  · exact absurd h ht
  · rw [e, msgReset_eq]
    rfl

/-- Settles O44: the two cases of `startMessage`; the second is `RESET`. -/
theorem startBeginsAMessage : Obligations.StartBeginsAMessage := by
  refine fun s t => ⟨fun ht => ⟨s.bufferWrites + 1, ?_⟩, fun ht => ?_⟩
  · simp only [exec, execStart, startMessage_type ht]
    rfl
  · obtain ⟨k, hk⟩ := answers_reset s
    exact ⟨k, by rw [ht, exec_start_zero, hk]⟩

/-! ### SET_ADDR, SET_DEST, CLEAR_NEW -/

/-- Settles O45: `SET_ADDR` has no branch. -/
theorem setAddrStoresTheAddress : Obligations.SetAddrStoresTheAddress := fun _ _ => rfl

/-- Settles O46: the two branches of `SET_DEST`. -/
theorem setDestOnlyBeforeASend : Obligations.SetDestOnlyBeforeASend :=
  fun _ _ _ => ⟨fun h => if_pos h, fun hactive hready => if_neg (not_or.2 ⟨hactive, hready⟩)⟩

/-- Settles O48: `CLEAR_NEW` has no branch. -/
theorem clearNewClearsTheFlag : Obligations.ClearNewClearsTheFlag := fun _ => rfl

/-! ### APPEND -/

theorem appendByte_active {s : State} (hs : s.state = .active) (ht : s.typeSeen = true) (x : Byte) :
    appendByte x s = bodyAppend x s := if_pos ⟨hs, ht⟩

theorem appendByte_ignored {s : State} (h : s.state ≠ .active ∨ s.typeSeen = false) (x : Byte) :
    appendByte x s = s := by
  refine if_neg fun ⟨hs, ht⟩ => ?_
  rcases h with h | h
  · exact h hs
  · exact absurd ht (by simp [h])

/-- Settles O47: the two cases of `bodyAppend` where `APPEND` appends, and the state as it was where it does not. -/
theorem appendExtendsTheBody : Obligations.AppendExtendsTheBody := by
  intro s x
  refine ⟨fun hs ht hlt => ?_, fun hs ht hge => ?_, fun h => ?_⟩
  · have hexec : exec (.append x) s = .next (respond [] 2 (noteWrite { s with body := s.body ++ [x] })) := by
      simp only [exec, execAppend, appendByte_active hs ht, bodyAppend_fits x hlt, noteWrite_state, hs]
      rfl
    refine ⟨⟨_, hexec⟩, fun t h => readBody_append ?_⟩
    rw [hexec] at h
    cases h
    rfl
  · simp only [exec, execAppend, appendByte_active hs ht, bodyAppend_full x hge]
    rfl
  · simp only [exec, execAppend, appendByte_ignored h]
    rfl

end Sys2Proof.Machine
end

-- ==== Address and queries: TO_ME, the status queries, GET_BODY, repetition (42_address.md, 45_host_ops.md) ====
section
/-! PROOFS. The obligations on the queries that are left: each is `answer` of one reading of the state, and that
reading does not depend on the record of outputs. -/

namespace Sys2Proof.Machine

/-! ### TO_ME -/

theorem exec_toMe (s : State) :
    exec .toMe s = .next { s with outputs := s.outputs ++ [⟨[], bitCode (addressedToMe s)⟩] } := rfl

/-- The wildcard on the low bound wins (42_address.md R147). -/
theorem addressedToMe_wildcard {s : State} (h : s.destLow = s.params.ALL) : addressedToMe s = true := if_pos h

theorem addressedToMe_unassigned {s : State} (hlow : s.destLow ≠ s.params.ALL) (ha : s.myAddress = 0) :
    addressedToMe s = false := by
  simp only [addressedToMe, if_neg hlow, if_pos ha]

theorem addressedToMe_range {s : State} (hlow : s.destLow ≠ s.params.ALL) (ha : s.myAddress ≠ 0) :
    addressedToMe s = decide (s.destLow.toNat ≤ s.myAddress.toNat ∧ s.myAddress.toNat ≤ s.destHigh.toNat) := by
  simp only [addressedToMe, if_neg hlow, if_neg ha, BitVec.le_def]
  split
  case isTrue h => exact (decide_eq_true h).symm
  case isFalse h => exact (decide_eq_false h).symm

/-- Settles O35: the three clauses of the predicate in their order. -/
theorem addressedToMeQuery : Obligations.AddressedToMe := by
  intro s
  rw [exec_toMe]
  refine ⟨fun h => ?_, fun hlow ha => ?_, fun hlow ha => ?_⟩
  · rw [addressedToMe_wildcard h]
    rfl
  · rw [addressedToMe_unassigned hlow ha]
    rfl
  · simp only [addressedToMe_range hlow ha, bitCode, decide_eq_true_eq]

/-! ### the status queries -/

theorem dirCode_eq (d : Dir) : dirCode d = if d = .tx then 1 else 0 := by
  cases d <;> rfl

theorem exec_getDir (s : State) :
    exec .getDir s = .next { s with outputs := s.outputs ++ [⟨[], dirCode s.dir⟩] } := rfl

/-- Settles O50: each query is `answer` of its field; the invariants give the line. -/
theorem statusQueriesReturnTheirFields : Obligations.StatusQueriesReturnTheirFields := by
  refine fun s => ⟨rfl, rfl, rfl, ?_, fun hv => ?_⟩
  · rw [exec_getDir, dirCode_eq]
  · rw [exec_getDir, hv.dir]
    rfl

/-! ### GET_BODY -/

theorem exec_getBody (idx : Byte) (s : State) :
    exec (.getBody idx) s = .next { s with outputs := s.outputs ++ [⟨[], (s.readBody idx.toNat).toNat⟩] } := rfl

/-- Settles O51: the query returns `readBody`, whose value below and at `bodyLen` is known. -/
theorem getBodyReadsTheBuffer : Obligations.GetBodyReadsTheBuffer := by
  intro s idx
  rw [exec_getBody]
  refine ⟨fun b h => ?_, fun h => ?_, fun _ => ⟨_, rfl⟩⟩
  · obtain ⟨hlt, rfl⟩ := List.getElem?_eq_some_iff.1 h
    rw [readBody_lt hlt]
  · rw [h, readBody_terminator]
    rfl

/-- No query reads the record of outputs -/
theorem exec_query_respond {i : Instr} (hq : isQuery i = true) (s : State) :
    ∃ n, exec i s = .next (respond [] n s) ∧
      ∀ evs res, exec i (respond evs res s) = .next (respond [] n (respond evs res s)) := by
  cases i
  case getState | getType | getSrc | getDestLo | getDestHi | getBodylen | getBody | getIsnew | toMe | toMaster |
      getSentat | getDir | getMyaddr =>
    exact ⟨_, rfl, fun _ _ => rfl⟩
  case reset | start | feed | setAddr | setDest | append | send | clearNew | byteSom | byteEom | byteEoh | byteSep |
      byteData =>
    exact absurd hq Bool.false_ne_true

/-- Settles O52: the second query reads a state that differs in the record of outputs only. -/
theorem repeatedQueryAgrees : Obligations.RepeatedQueryAgrees := by
  intro i j s t hi hj h
  obtain ⟨m, rfl⟩ := exec_query hj h
  obtain ⟨n, hfirst, hagain⟩ := exec_query_respond hi s
  exact ⟨n, _, _, hfirst, hagain [] m, rfl, rfl⟩

end Sys2Proof.Machine
end

-- ==== Invariants: every step keeps them, and the width of results follows (10_state.md section 4) ====
section
/-! PROOFS. The invariants of 10_state.md R36, one lemma per shared operation; `Inv.exec` assembles them over
`exec_cases`. -/

namespace Sys2Proof.Machine

/-! ### The invariants (10_state.md R36) -/

/-- Outside IDLE and HEADER the invariants ask of the message only that nothing comes before the type. -/
theorem inv_of_message {t : State} (hP : paramsLegal t.params = true) (hmem : Memory.wf t = true) (hdir : t.dir = .rx)
    (hsent : t.sentAt < 2 ^ t.params.TSW) (hidle : t.state ≠ .idle) (hheader : t.state ≠ .header)
    (hready : t.state = .ready → t.typeSeen = true) (htype : t.typeSeen = false → t.body = [] ∧ t.msgType = 0) :
    Inv t where
  params := hP
  memory := hmem
  dir := hdir
  idle e := absurd e hidle
  header e := absurd e hheader
  typeSeen e := (htype e).1
  headerFields e := absurd e hheader
  noType e := (htype e).2
  ready := hready
  sentAt := hsent

theorem Inv.respond {s : State} (h : Inv s) (evs : List Event) (res : Nat) : Inv (respond evs res s) :=
  ⟨h.params, h.memory, h.dir, h.idle, h.header, h.typeSeen, h.headerFields, h.noType, h.ready, h.sentAt⟩

theorem Inv.takeInput {s : State} (h : Inv s) (inp : Input) (rest : List Input) : Inv (takeInput inp rest s) :=
  ⟨h.params, h.memory, h.dir, h.idle, h.header, h.typeSeen, h.headerFields, h.noType, h.ready, h.sentAt⟩

theorem Inv.setAddress {s : State} (h : Inv s) (a : Byte) : Inv { s with myAddress := a } :=
  ⟨h.params, h.memory, h.dir, h.idle, h.header, h.typeSeen, h.headerFields, h.noType, h.ready, h.sentAt⟩

theorem Inv.clearNew {s : State} (h : Inv s) : Inv (clearNew s) :=
  ⟨h.params, h.memory, h.dir, h.idle, h.header, h.typeSeen, h.headerFields, h.noType, h.ready, h.sentAt⟩

/-- Entering an error state keeps the invariants: nothing else is written (60_exceptions.md R246). -/
theorem Inv.enterError {s : State} (h : Inv s) {e : EngineState} (he : e = .overflow ∨ e = .aborted) :
    Inv (enterError e s) := by
  rcases he with rfl | rfl
  · exact inv_of_message h.params h.memory h.dir h.sentAt nofun nofun nofun fun ht => ⟨h.typeSeen ht, h.noType ht⟩
  · exact inv_of_message h.params h.memory h.dir h.sentAt nofun nofun nofun fun ht => ⟨h.typeSeen ht, h.noType ht⟩

theorem Inv.msgReset {s : State} (h : Inv s) : Inv (msgReset s) :=
  ⟨h.params, msgReset_keeps_wf h.memory, h.dir, fun _ => ⟨rfl, rfl, rfl, rfl, rfl, rfl, rfl⟩, nofun, fun _ => rfl,
    nofun, fun _ => rfl, nofun, h.sentAt⟩

theorem Inv.feedSom {s : State} (h : Inv s) : Inv (feedSom s) :=
  ⟨h.params, h.msgReset.memory, h.dir, nofun, fun _ => ⟨rfl, rfl, rfl⟩, fun _ => rfl, fun _ => ⟨rfl, rfl, rfl⟩,
    fun _ => rfl, nofun, h.sentAt⟩

theorem Inv.parseHeader {s : State} (h : Inv s) : Inv (parseHeader s) := by
  rcases parseHeader_cases s with e | ⟨lo, hi, sr, -, -, -, e⟩ <;> rw [e]
  · exact h.enterError (.inr rfl)
  · exact inv_of_message h.params (bodyClear_keeps_wf h.memory) h.dir h.sentAt nofun nofun nofun
      fun ht => ⟨rfl, h.noType ht⟩

theorem Inv.hdrAppend {s : State} (h : Inv s) (hs : s.state = .header) (x : Byte) : Inv (hdrAppend x s) := by
  have hmem := hdrAppend_keeps_wf x h.memory
  have hidle {p : Prop} (e : s.state = .idle) : p := absurd (hs.symm.trans e) nofun
  rcases hdrAppend_cases x s with ⟨-, e⟩ | ⟨-, e⟩ | ⟨-, e⟩ <;> rw [e] at hmem ⊢
  · exact ⟨h.params, hmem, h.dir, hidle, h.header, h.typeSeen, h.headerFields, h.noType, h.ready, h.sentAt⟩
  · exact ⟨h.params, hmem, h.dir, hidle, h.header, h.typeSeen, h.headerFields, h.noType, h.ready, h.sentAt⟩
  · exact h

theorem Inv.feedEomActive {s : State} (h : Inv s) : Inv (feedEomActive s).1 := by
  rcases feedEomActive_cases s with ⟨-, e⟩ | ⟨b, rx, hb, e⟩
  · rw [e]
    exact h.enterError (.inr rfl)
  · have hmem := bodyPop_keeps_wf h.memory (bodyPop_concat hb)
    have hseen : s.typeSeen = true := Bool.eq_true_of_not_eq_false fun ht => by simp [h.typeSeen ht] at hb
    have hno {p : Prop} (ht : s.typeSeen = false) : p := absurd (hseen.symm.trans ht) nofun
    rcases e with e | ⟨c, e⟩ <;> rw [e]
    · exact inv_of_message h.params hmem h.dir h.sentAt nofun nofun (fun _ => hseen) hno
    · exact inv_of_message h.params hmem h.dir h.sentAt nofun nofun nofun hno

theorem Inv.feedType {s : State} (h : Inv s) (hs : s.state = .active) (x : Byte) : Inv (feedType x s) :=
  inv_of_message h.params h.memory h.dir h.sentAt (by simp [hs]) (by simp [hs]) (fun _ => rfl) nofun

theorem Inv.bodyAppend {s : State} (h : Inv s) (hs : s.state = .active) (ht : s.typeSeen = true) (x : Byte) :
    Inv (bodyAppend x s) := by
  have hmem := bodyAppend_keeps_wf x h.memory
  rcases bodyAppend_cases x s with ⟨-, e⟩ | ⟨-, e⟩ <;> rw [e] at hmem ⊢
  · exact inv_of_message h.params hmem h.dir h.sentAt (by simp [hs]) (by simp [hs]) (fun _ => ht) (by simp [ht])
  · exact h.enterError (.inl rfl)

theorem Inv.feedByte {s : State} (h : Inv s) (x : Byte) : Inv (feedByte x s).1 := by
  rcases feedByte_cases x s with ⟨-, e⟩ | ⟨-, -, e⟩ | ⟨-, -, -, e⟩ | ⟨-, -, -, e⟩ | ⟨-, -, -, -, e⟩ | ⟨-, -, -, hs, e⟩ |
    ⟨-, -, -, e⟩ | ⟨-, -, hs, -, e⟩ | ⟨-, -, hs, ht, e⟩ <;> rw [e]
  · exact h.feedSom
  · exact h
  · exact h
  · exact h.msgReset
  · exact h.parseHeader
  · exact h.hdrAppend hs x
  · exact h.feedEomActive
  · exact h.feedType hs x
  · exact h.bodyAppend hs ht x

theorem Inv.startMessage {s : State} (h : Inv s) (t : Byte) : Inv (startMessage t s) := by
  rcases startMessage_cases t s with ⟨-, e⟩ | ⟨-, e⟩ <;> rw [e]
  · exact h.msgReset
  · exact inv_of_message h.params h.msgReset.memory h.dir h.sentAt nofun nofun nofun nofun

theorem Inv.appendByte {s : State} (h : Inv s) (x : Byte) : Inv (appendByte x s) := by
  rcases appendByte_cases x s with e | ⟨hs, ht, e⟩ <;> rw [e]
  · exact h
  · exact h.bodyAppend hs ht x

/-- In ACTIVE and READY the destination, the source and the timestamp may be overwritten. -/
theorem Inv.setFields {s : State} (h : Inv s) (hs : s.state = .active ∨ s.state = .ready) (lo hi sr : Byte) {n : Nat}
    (hn : n < 2 ^ s.params.TSW) :
    Inv { s with destLow := lo, destHigh := hi, src := sr, sentAt := n, dir := .rx } := by
  have hidle : s.state ≠ .idle := by rcases hs with hs | hs <;> simp [hs]
  have hheader : s.state ≠ .header := by rcases hs with hs | hs <;> simp [hs]
  exact inv_of_message h.params h.memory rfl hn hidle hheader h.ready fun ht => ⟨h.typeSeen ht, h.noType ht⟩

theorem Inv.setDest {s : State} (h : Inv s) (hs : s.state = .active ∨ s.state = .ready) (lo hi : Byte) :
    Inv { s with destLow := lo, destHigh := hi } := by
  have := h.setFields hs lo hi s.src h.sentAt
  rwa [← h.dir] at this

theorem Inv.sent {s : State} (h : Inv s) (hs : sendReady s = true) :
    Inv { s with src := s.myAddress, sentAt := s.now % 2 ^ s.params.TSW, dir := .rx } :=
  h.setFields ((sendReady_iff s).1 hs).1.symm s.destLow s.destHigh s.myAddress (Nat.mod_lt _ (Nat.two_pow_pos _))

/-- Every operation that answers keeps the invariants. -/
theorem Inv.exec {i : Instr} {s t : State} (h : Inv s) (ht : exec i s = .next t) : Inv t := by
  rcases exec_cases ht with ⟨x, -, rfl⟩ | ⟨-, rfl⟩ | ⟨x, -, rfl⟩ | ⟨a, -, rfl⟩ | ⟨lo, hi, -, hs, rfl⟩ |
    ⟨lo, hi, -, -, rfl⟩ | ⟨x, -, rfl⟩ | ⟨-, hs, -, frame, -, rfl⟩ | ⟨-, -, rfl⟩ | ⟨-, rfl⟩ | ⟨-, n, rfl⟩
  · exact (h.feedByte x).respond _ _
  · exact h.msgReset.respond _ _
  · exact (h.startMessage x).respond _ _
  · exact (h.setAddress a).respond _ _
  · exact (h.setDest hs lo hi).respond _ _
  · exact h.respond _ _
  · exact (h.appendByte x).respond _ _
  · exact (h.sent hs).respond _ _
  · exact h.respond _ _
  · exact h.clearNew.respond _ _
  · exact h.respond _ _

/-- Settles O54: a step is idle, or it is an operation that answers at the state with its input consumed. -/
theorem stepKeepsInvariants : Obligations.StepKeepsInvariants := by
  intro s t h ht
  rcases step_cases h.params with ⟨-, e⟩ | ⟨inp, rest, -, ⟨i, -, e⟩ | ⟨r, -, e⟩⟩ <;> rw [e] at ht
  · exact Host.Outcome.next.inj ht ▸ h
  · exact (h.takeInput inp rest).exec ht
  · exact nomatch ht

/-! ### Results (30_encoding.md R87) -/

@[simp] theorem startMessage_outputs (x : Byte) (s : State) : (startMessage x s).outputs = s.outputs := by
  rcases startMessage_cases x s with ⟨-, e⟩ | ⟨-, e⟩ <;> rw [e]
  · exact msgReset_outputs s
  · exact msgReset_outputs s

@[simp] theorem bodyAppend_outputs (x : Byte) (s : State) : (bodyAppend x s).outputs = s.outputs := by
  rcases bodyAppend_cases x s with ⟨-, e⟩ | ⟨-, e⟩ <;> rw [e]
  rfl

@[simp] theorem appendByte_outputs (x : Byte) (s : State) : (appendByte x s).outputs = s.outputs := by
  rcases appendByte_cases x s with e | ⟨-, -, e⟩ <;> rw [e]
  exact bodyAppend_outputs x s

/-- `n` fits the width of a result (30_encoding.md R87). -/
def FitsResult (P : Params) (n : Nat) : Prop := n < 2 ^ resultWidth P

theorem fitsResult_of_lt_256 {P : Params} {n : Nat} (h : n < 2 ^ 8) : FitsResult P n :=
  h.trans_le (Nat.pow_le_pow_right Nat.two_pos ((Nat.le_max_left _ _).trans (Nat.le_max_right _ _)))

theorem fitsResult_of_timestamp {P : Params} {n : Nat} (h : n < 2 ^ P.TSW) : FitsResult P n :=
  h.trans_le (Nat.pow_le_pow_right Nat.two_pos (Nat.le_max_left _ _))

theorem fitsResult_of_length {P : Params} {n : Nat} (h : n ≤ P.C + 8) : FitsResult P n := by
  have hlog : P.C + 8 < 2 ^ (Nat.log2 (P.C + 8) + 1) := Nat.lt_log2_self
  exact (h.trans_lt hlog).trans_le
    (Nat.pow_le_pow_right Nat.two_pos ((Nat.le_max_right _ _).trans (Nat.le_max_right _ _)))

theorem fitsResult_byte (P : Params) (b : Byte) : FitsResult P b.toNat := fitsResult_of_lt_256 b.isLt

theorem fitsResult_stateCode (P : Params) (e : EngineState) : FitsResult P (stateCode e) :=
  fitsResult_of_lt_256 (by cases e <;> decide)

theorem fitsResult_bitCode (P : Params) (b : Bool) : FitsResult P (bitCode b) :=
  fitsResult_of_lt_256 (by cases b <;> decide)

theorem fitsResult_dirCode (P : Params) (d : Dir) : FitsResult P (dirCode d) :=
  fitsResult_of_lt_256 (by cases d <;> decide)

/-- The result of every query fits: a code, a byte, the length of the body or the timestamp. -/
theorem exec_query_fits {i : Instr} {s t : State} (hv : Inv s) (hq : isQuery i = true) (h : exec i s = .next t) :
    ∃ n, t = respond [] n s ∧ FitsResult s.params n := by
  obtain ⟨hbody, -⟩ := (memory_wf_iff s).1 hv.memory
  cases i
  case getState => cases h; exact ⟨_, rfl, fitsResult_stateCode _ _⟩
  case getType | getSrc | getDestLo | getDestHi | getBody | getMyaddr => cases h; exact ⟨_, rfl, fitsResult_byte _ _⟩
  case getBodylen => cases h; exact ⟨_, rfl, fitsResult_of_length (by omega)⟩
  case getIsnew | toMe | toMaster => cases h; exact ⟨_, rfl, fitsResult_bitCode _ _⟩
  case getSentat => cases h; exact ⟨_, rfl, fitsResult_of_timestamp hv.sentAt⟩
  case getDir => cases h; exact ⟨_, rfl, fitsResult_dirCode _ _⟩
  all_goals cases hq

/-- Settles O60: a result is a code, a byte, a timestamp or a length, and the width has room for each. -/
theorem resultFitsItsWidth : Obligations.ResultFitsItsWidth := by
  intro i s t hv h
  have hzero : FitsResult s.params 0 := fitsResult_stateCode _ .idle
  rcases exec_cases h with ⟨x, -, rfl⟩ | ⟨-, rfl⟩ | ⟨x, -, rfl⟩ | ⟨a, -, rfl⟩ | ⟨lo, hi, -, -, rfl⟩ |
    ⟨lo, hi, -, -, rfl⟩ | ⟨x, -, rfl⟩ | ⟨-, -, -, frame, rfl, rfl⟩ | ⟨-, -, rfl⟩ | ⟨-, rfl⟩ | ⟨hq, -⟩
  · exact ⟨_, _, feedStep_outputs x s, fitsResult_stateCode _ _⟩
  · exact ⟨_, _, rfl, hzero⟩
  · exact ⟨_, _, congrArg (· ++ [_]) (startMessage_outputs x s), fitsResult_stateCode _ _⟩
  · exact ⟨_, _, rfl, hzero⟩
  · exact ⟨_, _, rfl, fitsResult_stateCode _ .header⟩
  · exact ⟨_, _, rfl, hzero⟩
  · exact ⟨_, _, congrArg (· ++ [_]) (appendByte_outputs x s), fitsResult_stateCode _ _⟩
  · obtain ⟨hbody, -⟩ := (memory_wf_iff s).1 hv.memory
    exact ⟨_, _, rfl, fitsResult_of_length (compose_length_le hbody)⟩
  · exact ⟨_, _, rfl, hzero⟩
  · exact ⟨_, _, rfl, hzero⟩
  · obtain ⟨n, rfl, hn⟩ := exec_query_fits hv hq h
    exact ⟨_, _, rfl, hn⟩

end Sys2Proof.Machine
end

-- ==== Writers: the transition table and who writes what (40_framing.md section 4, 10_state.md section 6) ====
section
/-! PROOFS. The obligations over all operations: where the `state` register may go, which operation writes which field
and which leaves the buffers alone, and which events an operation puts out. Each follows `exec_cases`, and for a
received byte `feedByte_cases`. -/

namespace Sys2Proof.Machine

/-! ### The transition table (40_framing.md R119) -/

theorem edges_of_fedByte {P : Params} {i : Instr} {x : Byte} (h : fedByte P i = some x) (e : EngineState) :
    edges P e i = fedEdges P e x := by
  cases i <;> cases h <;> rfl

theorem edges_of_isQuery {i : Instr} (h : isQuery i = true) (P : Params) (e : EngineState) : edges P e i = [e] := by
  cases i <;> cases h <;> rfl

theorem fedEdges_terminal {P : Params} {e : EngineState} {x : Byte} (hx : x ≠ P.SOM) (he : isTerminal e = true) :
    fedEdges P e x = [e] := by
  cases e <;> cases he <;> exact if_neg hx

/-- A received byte moves the `state` register along an edge. -/
theorem feedByte_state_mem (x : Byte) (s : State) : (feedByte x s).1.state ∈ fedEdges s.params s.state x := by
  rcases feedByte_cases x s with ⟨rfl, e⟩ | ⟨hsom, ht, e⟩ | ⟨hsom, heom, hs, e⟩ | ⟨hsom, rfl, hs, e⟩ |
    ⟨hsom, heom, rfl, hs, e⟩ | ⟨hsom, heom, heoh, hs, e⟩ | ⟨hsom, rfl, hs, e⟩ | ⟨hsom, heom, hs, -, e⟩ |
    ⟨hsom, heom, hs, -, e⟩ <;> rw [e]
  · simp [fedEdges]
  · simp [fedEdges_terminal hsom ht]
  · simp [fedEdges, hsom, hs]
  · rcases hs with hs | hs <;> simp [fedEdges, hsom, hs]
  · rcases parseHeader_state_hdr s with ⟨hp | hp, -⟩ <;> simp [fedEdges, hsom, heom, hs, hp]
  · simp [fedEdges, hsom, heom, heoh, hs, hdrAppend_state]
  · rcases feedEomActive_cases s with ⟨-, e⟩ | ⟨b, rx, -, e | ⟨c, e⟩⟩ <;> simp [fedEdges, hsom, hs, e]
  · simp [fedEdges, hsom, heom, hs]
  · rcases bodyAppend_cases x s with ⟨-, e⟩ | ⟨-, e⟩ <;> simp [fedEdges, hsom, heom, hs, e]

theorem appendByte_state_mem (x : Byte) (s : State) :
    (appendByte x s).state ∈ edges s.params s.state (.append x) := by
  rcases appendByte_cases x s with e | ⟨hs, -, e⟩
  · by_cases hs : s.state = .active <;> simp [edges, e, hs]
  · rcases bodyAppend_cases x s with ⟨-, e'⟩ | ⟨-, e'⟩ <;> simp [edges, e, e', hs]

/-- Settles O56: a received byte follows the rows of `fedEdges`; every other operation has its row in `edges`. -/
theorem stateMovesAlongTheTable : Obligations.StateMovesAlongTheTable := by
  intro i s t h
  rcases exec_cases h with ⟨x, hfed, rfl⟩ | ⟨rfl, rfl⟩ | ⟨x, rfl, rfl⟩ | ⟨a, rfl, rfl⟩ | ⟨lo, hi, rfl, -, rfl⟩ |
    ⟨lo, hi, rfl, -, rfl⟩ | ⟨x, rfl, rfl⟩ | ⟨rfl, -, -, frame, -, rfl⟩ | ⟨rfl, -, rfl⟩ | ⟨rfl, rfl⟩ | ⟨hq, n, rfl⟩
  · rw [edges_of_fedByte hfed]
    exact feedByte_state_mem x s
  · exact List.mem_singleton_self _
  · rw [respond_state, edges]
    rcases startMessage_cases x s with ⟨hx, e⟩ | ⟨hx, e⟩ <;> rw [e]
    · rw [if_pos hx]
      exact List.mem_singleton_self _
    · rw [if_neg hx]
      exact List.mem_singleton_self _
  · exact List.mem_singleton_self _
  · exact List.mem_singleton_self _
  · exact List.mem_singleton_self _
  · exact appendByte_state_mem x s
  · exact List.mem_singleton_self _
  · exact List.mem_singleton_self _
  · exact List.mem_singleton_self _
  · rw [edges_of_isQuery hq]
    exact List.mem_singleton_self _

/-! ### The way back to IDLE and HEADER (10_state.md R22) -/

/-- A received byte that moves the `state` register to IDLE or HEADER leaves the message reset (R100). -/
theorem feedByte_goesBack {x : Byte} {s : State} (hne : (feedByte x s).1.state ≠ s.state)
    (hback : (feedByte x s).1.state = .idle ∨ (feedByte x s).1.state = .header) :
    sameEngine (feedByte x s).1 (cleared (feedByte x s).1.state s) := by
  rcases feedByte_cases x s with ⟨-, e⟩ | ⟨-, -, e⟩ | ⟨-, -, -, e⟩ | ⟨-, -, -, e⟩ | ⟨-, -, -, -, e⟩ | ⟨-, -, -, -, e⟩ |
    ⟨-, -, -, e⟩ | ⟨-, -, -, -, e⟩ | ⟨-, -, hs, -, e⟩ <;> rw [e] at hne hback ⊢
  · simp [sameEngine, cleared]
  · exact absurd rfl hne
  · exact absurd rfl hne
  · simp [sameEngine, cleared]
  · rcases parseHeader_state_hdr s with ⟨hp | hp, -⟩ <;> simp [hp] at hback
  · exact absurd (hdrAppend_state x s) hne
  · rcases feedEomActive_cases s with ⟨-, e⟩ | ⟨b, rx, -, e | ⟨c, e⟩⟩ <;> simp [e] at hback
  · exact absurd rfl hne
  · rcases bodyAppend_cases x s with ⟨-, e⟩ | ⟨-, e⟩ <;> simp [e, hs] at hback

/-- Settles O57: among the operations that change the `state` register, those that lead to IDLE or HEADER perform the
message reset. -/
theorem onlyTheMessageResetGoesBack : Obligations.OnlyTheMessageResetGoesBack := by
  intro i s t h hne hback
  rcases exec_cases h with ⟨x, -, rfl⟩ | ⟨-, rfl⟩ | ⟨x, -, rfl⟩ | ⟨a, -, rfl⟩ | ⟨lo, hi, -, -, rfl⟩ |
    ⟨lo, hi, -, -, rfl⟩ | ⟨x, -, rfl⟩ | ⟨-, -, -, frame, -, rfl⟩ | ⟨-, -, rfl⟩ | ⟨-, rfl⟩ | ⟨-, n, rfl⟩
  · exact feedByte_goesBack hne hback
  · simp [sameEngine, cleared]
  · rcases startMessage_cases x s with ⟨-, e⟩ | ⟨-, e⟩
    · simp [e, sameEngine, cleared]
    · simp [e] at hback
  · exact absurd rfl hne
  · exact absurd rfl hne
  · exact absurd rfl hne
  · rcases appendByte_cases x s with e | ⟨hs, -, e⟩
    · simp [e] at hne
    · rcases bodyAppend_cases x s with ⟨-, e'⟩ | ⟨-, e'⟩ <;> simp [e, e', hs] at hback
  · exact absurd rfl hne
  · exact absurd rfl hne
  · exact absurd rfl hne
  · exact absurd rfl hne

/-! ### The two buffers (20_memory.md) -/

/-- Settles O59: the operations that are left write neither buffer nor the counter of buffer writes, which are all a
read depends on. -/
theorem buffersHaveNoOtherWriter : Obligations.BuffersHaveNoOtherWriter := by
  intro i s t h hfed hreset hstart happend
  rcases exec_cases h with ⟨x, hx, -⟩ | ⟨rfl, -⟩ | ⟨x, rfl, -⟩ | ⟨a, -, rfl⟩ | ⟨lo, hi, -, -, rfl⟩ |
    ⟨lo, hi, -, -, rfl⟩ | ⟨x, rfl, -⟩ | ⟨-, -, -, frame, -, rfl⟩ | ⟨-, -, rfl⟩ | ⟨-, rfl⟩ | ⟨-, n, rfl⟩
  · exact absurd (hfed.symm.trans hx) nofun
  · exact absurd rfl hreset
  · exact absurd rfl (hstart x)
  · exact ⟨readBody_congr rfl rfl, rfl, rfl, rfl⟩
  · exact ⟨readBody_congr rfl rfl, rfl, rfl, rfl⟩
  · exact ⟨readBody_congr rfl rfl, rfl, rfl, rfl⟩
  · exact absurd rfl (happend x)
  · exact ⟨readBody_congr rfl rfl, rfl, rfl, rfl⟩
  · exact ⟨readBody_congr rfl rfl, rfl, rfl, rfl⟩
  · exact ⟨readBody_congr rfl rfl, rfl, rfl, rfl⟩
  · exact ⟨readBody_congr rfl rfl, rfl, rfl, rfl⟩

/-! ### The table of writers (10_state.md section 6) -/

/-- Who writes what between `s` and the next state `t` of `i`: the rows of the table of 10_state.md section 6. A field
that is as it was needs no reason, which each row's default says. -/
structure WrittenByTable (i : Instr) (s t : State) : Prop where
  params : t.params = s.params := by rfl
  msgType : t.msgType ≠ s.msgType →
    (resetsMessage s i ∧ (t.msgType = 0 ∨ i = .start t.msgType)) ∨
    (s.state = .active ∧ s.typeSeen = false ∧ fedByte s.params i = some t.msgType) := by exact fun h => absurd rfl h
  typeSeen : t.typeSeen ≠ s.typeSeen →
    (resetsMessage s i ∧ (t.typeSeen = false ∨ ∃ x, x ≠ 0 ∧ i = .start x)) ∨
    (s.state = .active ∧ t.typeSeen = true ∧ ∃ x, fedByte s.params i = some x) := by exact fun h => absurd rfl h
  src : t.src ≠ s.src →
    (resetsMessage s i ∧ t.src = 0) ∨ runsParser s i ∨ (i = .send ∧ t.src = s.myAddress) := by
      exact fun h => absurd rfl h
  dest : t.destLow ≠ s.destLow ∨ t.destHigh ≠ s.destHigh →
    (resetsMessage s i ∧ t.destLow = 0 ∧ t.destHigh = 0) ∨ runsParser s i ∨ i = .setDest t.destLow t.destHigh := by
      exact fun h => h.elim (absurd rfl) (absurd rfl)
  body : t.body ≠ s.body →
    ((resetsMessage s i ∨ runsParser s i) ∧ t.body = []) ∨
    (s.state = .active ∧ fedByte s.params i = some s.params.EOM ∧ t.body = s.body.dropLast) ∨
    (s.state = .active ∧ ∃ x, (fedByte s.params i = some x ∨ i = .append x) ∧ t.body = s.body ++ [x]) := by
      exact fun h => absurd rfl h
  hdr : t.hdr ≠ s.hdr ∨ t.hdrLen ≠ s.hdrLen →
    (resetsMessage s i ∧ t.hdr = [] ∧ t.hdrLen = 0) ∨
    (s.state = .header ∧ t.hdrLen = s.hdrLen + 1 ∧
      ∃ x, fedByte s.params i = some x ∧ (t.hdr = s.hdr ++ [x] ∨ t.hdr = s.hdr)) := by
      exact fun h => h.elim (absurd rfl) (absurd rfl)
  myAddress : t.myAddress ≠ s.myAddress → i = .setAddr t.myAddress := by exact fun h => absurd rfl h
  sentAt : t.sentAt ≠ s.sentAt → i = .send ∧ t.sentAt = s.now % 2 ^ s.params.TSW := by exact fun h => absurd rfl h
  dir : t.dir ≠ s.dir → i = .send ∧ t.dir = .rx := by exact fun h => absurd rfl h
  newCleared : s.isNew = true → t.isNew = false → i = .clearNew := by
    exact fun h h' => absurd (h.symm.trans h') Bool.false_ne_true.symm
  newSet : s.isNew = false → t.isNew = true →
    resetsMessage s i ∨ (s.state = .active ∧ t.state = .ready ∧ fedByte s.params i = some s.params.EOM) := by
      exact fun h h' => absurd (h.symm.trans h') Bool.false_ne_true

theorem WrittenByTable.respond {i : Instr} {s t : State} (h : WrittenByTable i s t) (evs : List Event) (res : Nat) :
    WrittenByTable i s (respond evs res t) := by
  obtain ⟨h1, h2, h3, h4, h5, h6, h7, h8, h9, h10, h11, h12⟩ := h
  exact ⟨h1, h2, h3, h4, h5, h6, h7, h8, h9, h10, h11, h12⟩

/-- The message reset, whatever state it leaves. -/
theorem writtenByTable_of_reset {i : Instr} {s : State} (hr : resetsMessage s i) (e : EngineState) (k : Nat) :
    WrittenByTable i s { cleared e s with bufferWrites := k } where
  msgType _ := .inl ⟨hr, .inl rfl⟩
  typeSeen _ := .inl ⟨hr, .inl rfl⟩
  src _ := .inl ⟨hr, rfl⟩
  dest _ := .inl ⟨hr, rfl, rfl⟩
  body _ := .inl ⟨.inl hr, rfl⟩
  hdr _ := .inl ⟨hr, rfl, rfl⟩
  newCleared _ := nofun
  newSet _ _ := .inl hr

theorem writtenByTable_startMessage (x : Byte) (s : State) : WrittenByTable (.start x) s (startMessage x s) := by
  have hr : resetsMessage s (.start x) := .inr (.inl ⟨x, rfl⟩)
  rcases startMessage_cases x s with ⟨-, e⟩ | ⟨hx, e⟩ <;> rw [e]
  · exact writtenByTable_of_reset hr .idle (s.bufferWrites + 1)
  · exact { writtenByTable_of_reset hr .active (s.bufferWrites + 1) with
      msgType := fun _ => .inl ⟨hr, .inr rfl⟩
      typeSeen := fun _ => .inl ⟨hr, .inr ⟨x, hx, rfl⟩⟩ }

theorem writtenByTable_parseHeader {i : Instr} {s : State} (hp : runsParser s i) :
    WrittenByTable i s (parseHeader s) := by
  rcases parseHeader_cases s with e | ⟨lo, hi, sr, -, -, -, e⟩ <;> rw [e]
  · exact {}
  · exact { src := fun _ => .inr (.inl hp), dest := fun _ => .inr (.inl hp), body := fun _ => .inl ⟨.inr hp, rfl⟩ }

theorem writtenByTable_hdrAppend {i : Instr} {s : State} {x : Byte} (hs : s.state = .header)
    (hfed : fedByte s.params i = some x) : WrittenByTable i s (hdrAppend x s) := by
  rcases hdrAppend_cases x s with ⟨-, e⟩ | ⟨hlen, e⟩ | ⟨-, e⟩ <;> rw [e]
  · exact { hdr := fun _ => .inr ⟨hs, rfl, x, hfed, .inl rfl⟩ }
  · exact { hdr := fun _ => .inr ⟨hs, by rw [hlen], x, hfed, .inr rfl⟩ }
  · exact {}

theorem writtenByTable_feedEomActive {i : Instr} {s : State} (hs : s.state = .active)
    (hfed : fedByte s.params i = some s.params.EOM) : WrittenByTable i s (feedEomActive s).1 := by
  rcases feedEomActive_cases s with ⟨-, e⟩ | ⟨b, rx, hb, e⟩
  · rw [e]
    exact {}
  · have hpop : b = s.body.dropLast := by rw [hb, List.dropLast_concat]
    rcases e with e | ⟨c, e⟩ <;> rw [e]
    · exact { body := fun _ => .inr (.inl ⟨hs, hfed, hpop⟩), newCleared := fun _ => nofun,
              newSet := fun _ _ => .inr ⟨hs, rfl, hfed⟩ }
    · exact { body := fun _ => .inr (.inl ⟨hs, hfed, hpop⟩) }

theorem writtenByTable_bodyAppend {i : Instr} {s : State} {x : Byte} (hs : s.state = .active)
    (hi : fedByte s.params i = some x ∨ i = .append x) : WrittenByTable i s (bodyAppend x s) := by
  rcases bodyAppend_cases x s with ⟨-, e⟩ | ⟨-, e⟩ <;> rw [e]
  · exact { body := fun _ => .inr (.inr ⟨hs, x, hi, rfl⟩) }
  · exact {}

theorem writtenByTable_feedByte {i : Instr} {s : State} {x : Byte} (hfed : fedByte s.params i = some x) :
    WrittenByTable i s (feedByte x s).1 := by
  rcases feedByte_cases x s with ⟨rfl, e⟩ | ⟨-, -, e⟩ | ⟨-, -, -, e⟩ | ⟨-, rfl, hs, e⟩ | ⟨-, -, rfl, hs, e⟩ |
    ⟨-, -, -, hs, e⟩ | ⟨-, rfl, hs, e⟩ | ⟨-, -, hs, ht, e⟩ | ⟨-, -, hs, -, e⟩ <;> rw [e]
  · exact writtenByTable_of_reset (.inr (.inr (.inl hfed))) .header (s.bufferWrites + 1)
  · exact {}
  · exact {}
  · exact writtenByTable_of_reset (.inr (.inr (.inr ⟨hfed, hs⟩))) .idle (s.bufferWrites + 1)
  · exact writtenByTable_parseHeader ⟨hfed, hs⟩
  · exact writtenByTable_hdrAppend hs hfed
  · exact writtenByTable_feedEomActive hs hfed
  · exact { msgType := fun _ => .inr ⟨hs, ht, hfed⟩, typeSeen := fun _ => .inr ⟨hs, rfl, x, hfed⟩ }
  · exact writtenByTable_bodyAppend hs (.inl hfed)

theorem exec_writtenByTable {i : Instr} {s t : State} (h : exec i s = .next t) : WrittenByTable i s t := by
  rcases exec_cases h with ⟨x, hfed, rfl⟩ | ⟨rfl, rfl⟩ | ⟨x, rfl, rfl⟩ | ⟨a, rfl, rfl⟩ | ⟨lo, hi, rfl, -, rfl⟩ |
    ⟨lo, hi, rfl, -, rfl⟩ | ⟨x, rfl, rfl⟩ | ⟨rfl, -, -, frame, -, rfl⟩ | ⟨rfl, -, rfl⟩ | ⟨rfl, rfl⟩ | ⟨hq, n, rfl⟩
  · exact (writtenByTable_feedByte hfed).respond _ _
  · exact (writtenByTable_of_reset (.inl rfl) .idle (s.bufferWrites + 1)).respond _ _
  · exact (writtenByTable_startMessage x s).respond _ _
  · exact { myAddress := fun _ => rfl }
  · exact { dest := fun _ => .inr (.inr rfl) }
  · exact {}
  · rcases appendByte_cases x s with e | ⟨hs, -, e⟩ <;> rw [e]
    · exact {}
    · exact (writtenByTable_bodyAppend hs (.inr rfl)).respond _ _
  · exact { src := fun _ => .inr (.inr ⟨rfl, rfl⟩), sentAt := fun _ => ⟨rfl, rfl⟩, dir := fun _ => ⟨rfl, rfl⟩ }
  · exact {}
  · exact { newCleared := fun _ _ => rfl, newSet := fun _ => nofun }
  · exact {}

/-- Settles O58: the rows of `WrittenByTable`, one by one. -/
theorem onlyTheNamedWritersWrite : Obligations.OnlyTheNamedWritersWrite := by
  intro i s t h
  obtain ⟨hparams, htype, hseen, hsrc, hdest, hbody, hhdr, haddr, hsent, hdir, hcleared, hset⟩ := exec_writtenByTable h
  exact ⟨hparams, htype, hseen, hsrc, hdest, hbody, hhdr, haddr, hsent, hdir, hcleared, hset⟩

/-! ### Bus events (44_transmit.md R195) -/

/-- A received byte puts no direction or transmit event out: the one event of `FEED` is the mismatch (40_framing.md
R116). -/
theorem feedByte_events_offBus (x : Byte) (s : State) : ∀ e ∈ (feedByte x s).2, isBusEvent e = false := by
  rcases feedByte_cases x s with ⟨-, e⟩ | ⟨-, -, e⟩ | ⟨-, -, -, e⟩ | ⟨-, -, -, e⟩ | ⟨-, -, -, -, e⟩ | ⟨-, -, -, -, e⟩ |
    ⟨-, -, -, e⟩ | ⟨-, -, -, -, e⟩ | ⟨-, -, -, -, e⟩ <;> rw [e]
  case inr.inr.inr.inr.inr.inr.inl =>
    rcases feedEomActive_cases s with ⟨-, e⟩ | ⟨_, _, -, e | ⟨_, e⟩⟩ <;> simp [e, isBusEvent]
  all_goals exact nofun

/-- Settles O42: `SEND` puts out its window, a received byte at most the mismatch, every other operation nothing. -/
theorem directionWindow : Obligations.DirectionWindow := by
  intro i s t h
  rcases exec_cases h with ⟨x, -, rfl⟩ | ⟨-, rfl⟩ | ⟨x, -, rfl⟩ | ⟨a, -, rfl⟩ | ⟨lo, hi, -, -, rfl⟩ |
    ⟨lo, hi, -, -, rfl⟩ | ⟨x, -, rfl⟩ | ⟨rfl, -, -, frame, rfl, rfl⟩ | ⟨-, -, rfl⟩ | ⟨-, rfl⟩ | ⟨-, n, rfl⟩
  · exact ⟨_, _, feedStep_outputs x s, .inl (feedByte_events_offBus x s)⟩
  · exact ⟨[], _, rfl, .inl nofun⟩
  · exact ⟨[], _, congrArg (· ++ [_]) (startMessage_outputs x s), .inl nofun⟩
  · exact ⟨[], _, rfl, .inl nofun⟩
  · exact ⟨[], _, rfl, .inl nofun⟩
  · exact ⟨[], _, rfl, .inl nofun⟩
  · exact ⟨[], _, congrArg (· ++ [_]) (appendByte_outputs x s), .inl nofun⟩
  · exact ⟨_, _, rfl, .inr ⟨rfl, _, six_le_compose_length _, rfl⟩⟩
  · exact ⟨[], _, rfl, .inl nofun⟩
  · exact ⟨[], _, rfl, .inl nofun⟩
  · exact ⟨[], _, rfl, .inl nofun⟩

end Sys2Proof.Machine
end

-- ==== Sequences: FEEDSEQ, its capacity, and what reception does not depend on (40_framing.md, 30_encoding.md R82) ====
section
/-! PROOFS. The obligations on a sequence of received bytes. What reception neither reads nor writes is said once, by
`graft`: the engine that receives may be put into other surroundings before or after. Both independence statements and
the queue of FEEDSEQ are uses of it. -/

namespace Sys2Proof.Machine

/-! ### What reception neither reads nor decides -/

/-- `s` in the surroundings of `c`: the fields that `FEED` does not touch are those of `c`, and the outputs and buffer
writes of `s` come after those of `c`. -/
def graft (c s : State) : State :=
  { s with myAddress := c.myAddress, sentAt := c.sentAt, dir := c.dir, inputs := c.inputs, now := c.now,
           flushDone := c.flushDone, outputs := c.outputs ++ s.outputs,
           bufferWrites := c.bufferWrites + s.bufferWrites }

theorem bodyAppend_graft (x : Byte) (c s : State) : bodyAppend x (graft c s) = graft c (bodyAppend x s) := by
  rcases bodyAppend_cases x s with ⟨h, e⟩ | ⟨h, e⟩ <;> rw [e]
  · exact bodyAppend_fits x h
  · exact bodyAppend_full x h

theorem hdrAppend_graft (x : Byte) (c s : State) : hdrAppend x (graft c s) = graft c (hdrAppend x s) := by
  simp only [hdrAppend, apply_ite (graft c)]
  rfl

theorem parseHeader_graft (c s : State) : parseHeader (graft c s) = graft c (parseHeader s) := by
  by_cases hl : s.hdrLen = 0 ∨ 5 < s.hdrLen
  · rw [parseHeader_badLength hl]
    exact parseHeader_badLength hl
  · cases hf : headerFields s.params s.hdr with
    | none =>
      rw [parseHeader_malformed hf]
      exact parseHeader_malformed hf
    | some p =>
      obtain ⟨lo, hi, sr⟩ := p
      rw [parseHeader_parsed (by omega) (by omega) hf]
      exact parseHeader_parsed (s := graft c s) (by simp only [graft]; omega) (by simp only [graft]; omega) hf

theorem feedEomActive_graft (c s : State) :
    feedEomActive (graft c s) = (graft c (feedEomActive s).1, (feedEomActive s).2) := by
  rcases List.eq_nil_or_concat s.body with h | ⟨b, rx, h⟩
  · rw [feedEomActive_empty h]
    exact feedEomActive_empty h
  · rw [List.concat_eq_append] at h
    rw [feedEomActive_concat h, feedEomActive_concat (s := graft c s) h]
    by_cases hrx : rx = crc8 ([s.destLow, s.destHigh, s.src, s.msgType] ++ b)
    · rw [if_pos hrx]
      exact if_pos hrx
    · rw [if_neg hrx]
      exact if_neg hrx

theorem feedByte_graft (x : Byte) (c s : State) :
    feedByte x (graft c s) = (graft c (feedByte x s).1, (feedByte x s).2) := by
  rcases feedByte_cases x s with ⟨rfl, e⟩ | ⟨h, ht, e⟩ | ⟨h, hm, hs, e⟩ | ⟨h, rfl, hs, e⟩ | ⟨h, hm, rfl, hs, e⟩ |
    ⟨h, hm, hh, hs, e⟩ | ⟨h, rfl, hs, e⟩ | ⟨h, hm, hs, ht, e⟩ | ⟨h, hm, hs, ht, e⟩ <;> rw [e]
  · exact feedByte_som (graft c s)
  · exact feedByte_terminal h ht
  · exact feedByte_idle h hm hs
  · exact feedByte_stray (s := graft c s) h hs
  · rw [← parseHeader_graft]
    exact feedByte_endOfHeader (s := graft c s) h hm hs
  · rw [← hdrAppend_graft]
    exact feedByte_header h hm hh hs
  · rw [← feedEomActive_graft]
    exact feedByte_endOfFrame (s := graft c s) h hs
  · exact feedByte_type h hm hs ht
  · rw [← bodyAppend_graft]
    exact feedByte_body h hm hs ht

theorem feedStep_graft (x : Byte) (c s : State) : feedStep x (graft c s) = graft c (feedStep x s) := by
  rw [feedStep, feedByte_graft]
  simp only [feedStep, graft, respond, List.append_assoc]

/-- Reception commutes with its surroundings. -/
theorem feedSeq_graft (bs : List Byte) (c s : State) : feedSeq bs (graft c s) = graft c (feedSeq bs s) := by
  induction bs generalizing s with
  | nil => rfl
  | cons b bs ih => rw [feedSeq, feedStep_graft, ih, feedSeq]

/-- `s` with no output and no buffer write yet. -/
def unrecorded (s : State) : State := { s with outputs := [], bufferWrites := 0 }

theorem graft_unrecorded (s : State) : graft s (unrecorded s) = s := by
  simp only [graft, unrecorded, List.append_nil, Nat.add_zero]

theorem unrecorded_graft (s : State) : graft (unrecorded s) s = s := by
  simp only [graft, unrecorded, List.nil_append, Nat.zero_add]

/-- An update of the surroundings alone may be made before reception or after it. -/
theorem feedSeq_comm_of_graft {f : State → State} (hf : ∀ c s, f (graft c s) = graft (f c) s) (bs : List Byte)
    (s : State) :
    feedSeq bs (f s) = f (feedSeq bs s) :=
  calc feedSeq bs (f s)
    _ = feedSeq bs (graft (f (unrecorded s)) s) := by rw [← hf, unrecorded_graft]
    _ = f (graft (unrecorded s) (feedSeq bs s)) := by rw [feedSeq_graft, hf]
    _ = f (feedSeq bs s) := by rw [← feedSeq_graft, unrecorded_graft]

/-- Settles O28: the address is part of the surroundings that reception commutes with. -/
theorem framingIgnoresTheAddress : Obligations.FramingIgnoresTheAddress :=
  fun s bs addr => feedSeq_comm_of_graft (f := fun s => { s with myAddress := addr }) (fun _ _ => rfl) bs s

/-- A received byte leaves the queue of operations and the `Env` as they were. -/
theorem feedStep_env (x : Byte) (s : State) :
    (feedStep x s).inputs = s.inputs ∧ (feedStep x s).now = s.now ∧ (feedStep x s).flushDone = s.flushDone := by
  rw [← graft_unrecorded s, feedStep_graft]
  exact ⟨rfl, rfl, rfl⟩

/-- Reception from states that agree in everything the spec gives the machine leaves states that do: it is the
reception from `unrecorded s` in the surroundings of either. -/
theorem feedSeq_sameEngine (bs : List Byte) {s t : State} (h : sameEngine s t) :
    sameEngine (feedSeq bs s) (feedSeq bs t) := by
  obtain ⟨hP, hstate, htype, hseen, hsrc, hlo, hhi, hbody, hhdr, hlen, haddr, hsent, hnew, hdir⟩ := h
  have ht : graft t (unrecorded s) = t := by
    simp only [graft, unrecorded, hP, hstate, htype, hseen, hsrc, hlo, hhi, hbody, hhdr, hlen, hnew, List.append_nil,
      Nat.add_zero]
  have hfeed_s : feedSeq bs s = graft s (feedSeq bs (unrecorded s)) := by rw [← feedSeq_graft, graft_unrecorded]
  have hfeed_t : feedSeq bs t = graft t (feedSeq bs (unrecorded s)) := by rw [← feedSeq_graft, ht]
  rw [hfeed_s, hfeed_t]
  exact ⟨rfl, rfl, rfl, rfl, rfl, rfl, rfl, rfl, rfl, rfl, haddr, hsent, rfl, hdir⟩

/-- Settles O27: the start-of-message byte leaves both engines with the same cleared message, and reception keeps them
the same. -/
theorem somForgetsTheMessage : Obligations.SomForgetsTheMessage := by
  intro s t bs hP haddr hsent hdir
  have hsom : feedStep s.params.SOM t = feedStep t.params.SOM t := by rw [hP]
  simp only [feedSeq, feedStep_som, hsom]
  exact feedSeq_sameEngine bs ⟨hP, rfl, rfl, rfl, rfl, rfl, rfl, rfl, rfl, rfl, haddr, hsent, rfl, hdir⟩

/-! ### Capacity (40_framing.md R112) -/

/-- In a terminal state a sequence without a start-of-message byte changes neither the state nor the body
(40_framing.md R104). -/
theorem feedSeq_terminal {bs : List Byte} {s : State} (ht : isTerminal s.state = true)
    (hb : ∀ x ∈ bs, x ≠ s.params.SOM) : (feedSeq bs s).state = s.state ∧ (feedSeq bs s).body = s.body := by
  induction bs generalizing s with
  | nil => exact ⟨rfl, rfl⟩
  | cons x bs ih =>
    rw [feedSeq, feedStep, feedByte_terminal (hb x (by simp)) ht]
    exact ih ht fun y hy => hb y (by simp [hy])

/-- A full body: the next byte is dropped into OVERFLOW, and those after it are ignored (40_framing.md R112). -/
theorem feedSeq_full {x : Byte} {bs : List Byte} {s : State} (hs : s.state = .active) (ht : s.typeSeen = true)
    (hlen : s.params.C - 1 ≤ s.bodyLen) (hb : ∀ y ∈ x :: bs, y ≠ s.params.SOM ∧ y ≠ s.params.EOM) :
    (feedSeq (x :: bs) s).state = .overflow ∧ (feedSeq (x :: bs) s).body = s.body := by
  obtain ⟨hsom, heom⟩ := hb x (by simp)
  rw [feedSeq, feedStep, feedByte_body hsom heom hs ht, bodyAppend_full x hlen]
  exact feedSeq_terminal rfl fun y hy => (hb y (by simp [hy])).1

/-- Settles O26: the first `C - 1` bytes are held by `feedSeq_body`; of those after them one overflows and the rest
are ignored. -/
theorem capacityFromTheWire : Obligations.CapacityFromTheWire := by
  intro s bs hs ht hbody hb
  have hheld : ∃ held, feedSeq (bs.take (s.params.C - 1)) s = held ∧ held.params = s.params ∧ held.state = .active ∧
      held.typeSeen = true ∧ held.body = bs.take (s.params.C - 1) := by
    obtain ⟨k, hk⟩ := feedSeq_body (bs := bs.take (s.params.C - 1)) hs ht (by simp [State.bodyLen, hbody])
      fun x hx => hb x (List.mem_of_mem_take hx)
    exact ⟨_, hk, rfl, hs, ht, by simp [hbody]⟩
  obtain ⟨held, hfeed, hP, hstate, hseen, hlogical⟩ := hheld
  by_cases hlen : bs.length ≤ s.params.C - 1
  · rw [List.take_of_length_le hlen] at hfeed
    rw [hfeed, if_pos hlen]
    exact ⟨hlogical, hstate⟩
  · obtain ⟨x, rest, hrest⟩ := List.exists_cons_of_length_pos (l := bs.drop (s.params.C - 1)) (by simp; omega)
    have hsplit : feedSeq bs s = feedSeq (x :: rest) held := by
      rw [← hfeed, ← hrest, ← feedSeq_append, List.take_append_drop]
    obtain ⟨hover, hkept⟩ := feedSeq_full (x := x) (bs := rest) hstate hseen
      (by simp [State.bodyLen, hlogical, hP]; omega) (fun y hy => hP ▸ hb y (List.mem_of_mem_drop (hrest ▸ hy)))
    rw [hsplit, if_neg hlen]
    exact ⟨hkept.trans hlogical, hover⟩

/-! ### FEEDSEQ (30_encoding.md R82) -/

/-- Each `FEED` of a `FEEDSEQ` records one output: their events are its events, the last result its result. -/
theorem feedSeq_outputs (bs : List Byte) (s : State) :
    ∃ outs : List Output, (feedSeq bs s).outputs = s.outputs ++ outs ∧ outs.length = bs.length ∧
      (feedSeqOutput bs s).events = (outs.map (·.events)).flatten ∧
      ∀ o, outs.getLast? = some o → (feedSeqOutput bs s).result = o.result := by
  induction bs generalizing s with
  | nil => exact ⟨[], (List.append_nil _).symm, rfl, rfl, nofun⟩
  | cons b bs ih =>
    obtain ⟨outs, houts, hlen, hevents, hlast⟩ := ih (feedStep b s)
    refine ⟨⟨(feedByte b s).2, stateCode (feedByte b s).1.state⟩ :: outs, ?_, ?_, ?_, ?_⟩
    · rw [feedSeq, houts, feedStep_outputs, List.append_assoc]
      rfl
    · simp [hlen]
    · simp [feedSeqOutput, hevents]
    · intro o ho
      cases outs with
      | nil =>
        obtain rfl : bs = [] := List.length_eq_zero_iff.1 hlen.symm
        obtain rfl := Option.some.inj ho
        rfl
      | cons o' outs => exact hlast o (by rwa [List.getLast?_cons_cons] at ho)

/-- The environment issues the byte `b` as `inp`, in wire form or as a `FEED` word, under the `Env` of `s`. -/
def Issues (s : State) (inp : Input) (b : Byte) : Prop :=
  (inp.word = .wire b ∨ ∃ a, inp.word = .command (cmdWord 0x2 a b)) ∧ inp.now = s.now ∧ inp.flushDone = s.flushDone

/-- Both forms of a received byte decode to an operation that hands it over (00_scope.md R9). -/
theorem decode_of_issues {s : State} {inp : Input} {b : Byte} (h : Issues s inp b) (P : Params) :
    ∃ i, decode P inp.word = .ok i ∧ fedByte P i = some b := by
  obtain ⟨hw | ⟨a, hw⟩, -⟩ := h <;> rw [hw]
  · obtain ⟨-, hfed, -⟩ := decodeWire_wellFormed P b
    exact ⟨_, rfl, hfed⟩
  · exact ⟨.feed b, decodeCommand_cmdWord 0x2 a b, rfl⟩

/-- A step on a received byte consumes its input and feeds it. -/
theorem step_of_issues {s : State} {inp : Input} {rest : List Input} {b : Byte} (hP : paramsLegal s.params = true)
    (hin : s.inputs = inp :: rest) (h : Issues s inp b) : step s = .next (feedStep b { s with inputs := rest }) := by
  obtain ⟨i, hi, hfed⟩ := decode_of_issues h s.params
  obtain ⟨-, hnow, hflush⟩ := h
  rw [step_run hP hin hi]
  simp only [takeInput, hnow, hflush]
  exact exec_fedByte hfed

theorem feedStep_params (x : Byte) (s : State) : (feedStep x s).params = s.params :=
  (exec_writtenByTable (i := .feed x) rfl).params

/-- A run whose first step answers goes on from its answer. -/
theorem run_succ_of_step {M : Host.Core} {s t : M.State} (h : M.step s = .next t) (k : Nat) :
    M.run (k + 1) s = M.run k t := by
  rw [Host.Core.run, h]

/-- A run over an input of received bytes is `feedSeq` of them: every step consumes one input, which reception
commutes with. -/
theorem run_of_issues {s : State} {bs : List Byte} (hP : paramsLegal s.params = true)
    (hin : List.Forall₂ (Issues s) s.inputs bs) :
    Host.Core.run Sys2Proof.core bs.length s = .next (feedSeq bs { s with inputs := [] }) := by
  induction bs generalizing s with
  | nil =>
    have h : s.inputs = [] := List.forall₂_nil_right_iff.1 hin
    rw [← h]
    rfl
  | cons b bs ih =>
    obtain ⟨inp, rest, hb, htail, hrest⟩ := List.forall₂_cons_right_iff.1 hin
    obtain ⟨hinputs, hnow, hflush⟩ := feedStep_env b { s with inputs := rest }
    have hqueue : { feedStep b { s with inputs := rest } with inputs := [] } = feedStep b { s with inputs := [] } :=
      (feedSeq_comm_of_graft (f := fun s => { s with inputs := [] }) (fun _ _ => rfl) [b]
        { s with inputs := rest }).symm
    rw [List.length_cons, run_succ_of_step (M := Sys2Proof.core) (step_of_issues hP hrest hb), ih, hqueue]
    · rfl
    · rw [feedStep_params]
      exact hP
    · rw [hinputs]
      unfold Issues
      rw [hnow, hflush]
      exact htail

/-- Settles O29: the run is an induction over the bytes, and so is the record of outputs. -/
theorem feedSequenceIsItsSteps : Obligations.FeedSequenceIsItsSteps := by
  refine fun s bs => ⟨fun hP hin => run_of_issues hP hin, feedSeq_outputs bs s, ?_⟩
  rintro rfl
  exact ⟨rfl, rfl⟩

end Sys2Proof.Machine
end

-- ==== Round trip: a composed frame is received as the same message (44_transmit.md section 5) ====
section
/-! PROOFS. The round trip of 44_transmit.md R200. The frame is cut into three parts: up to the end-of-header byte,
then type and body with the checksum, then the end-of-message byte. `Receiving` is what holds of the receiver between
the parts. -/

namespace Sys2Proof.Machine

/-! ### The header of a composed frame -/

/-- The header bytes of a composed frame: destination, range form where the bounds differ, source where it is not the
master (44_transmit.md R185). -/
def headerBytes (m : State) : List Byte :=
  [m.destLow] ++ (if m.destLow ≠ m.destHigh then [m.params.SEP, m.destHigh] else []) ++
  (if m.src ≠ m.params.MASTER then [m.src] else [])

theorem compose_eq_headerBytes (m : State) :
    compose m = (m.params.SOM :: headerBytes m ++ [m.params.EOH]) ++ (m.msgType :: (m.body ++ [crc8Msg m])) ++
      [m.params.EOM] := by
  simp only [compose, headerBytes, List.append_assoc, List.cons_append, List.nil_append]

theorem headerBytes_length (m : State) : 1 ≤ (headerBytes m).length ∧ (headerBytes m).length ≤ 4 := by
  unfold headerBytes
  split <;> split <;> simp

/-- The parser gives back the fields that a header was composed from, unless a single destination is followed by a
source that reads as the separator (44_transmit.md R200). -/
theorem headerFields_headerBytes {m : State} (h : ¬ (m.destLow = m.destHigh ∧ m.src = m.params.SEP)) :
    headerFields m.params (headerBytes m) = some (m.destLow, m.destHigh, m.src) := by
  by_cases hrange : m.destLow = m.destHigh <;> by_cases hsrc : m.src = m.params.MASTER
  · simp [headerBytes, hrange, hsrc, headerFields_single]
  · have hsep : m.src ≠ m.params.SEP := fun e => h ⟨hrange, e⟩
    simp [headerBytes, hrange, hsrc, headerFields_single_src hsep]
  · simp [headerBytes, hrange, hsrc, headerFields_range]
  · simp [headerBytes, hrange, hsrc, headerFields_range_src]

/-- The header of a composed frame holds the fields and the separator. -/
theorem mem_headerBytes {m : State} {x : Byte} (h : x ∈ headerBytes m) :
    x = m.params.SEP ∨ x ∈ [m.destLow] ++ (if m.destLow ≠ m.destHigh then [m.destHigh] else []) ++
      (if m.src ≠ m.params.MASTER then [m.src] else []) := by
  simp only [headerBytes, List.mem_append] at h ⊢
  rcases h with (h | h) | h
  · exact .inr (.inl (.inl h))
  · by_cases hrange : m.destLow ≠ m.destHigh
    · rw [if_pos hrange] at h ⊢
      rcases List.mem_cons.1 h with h | h
      · exact .inl h
      · exact .inr (.inl (.inr h))
    · rw [if_neg hrange] at h
      exact absurd h List.not_mem_nil
  · exact .inr (.inr h)

/-! ### A frame as it is received -/

/-- `t` has been reached from `r` without an event. -/
def Quiet (r t : State) : Prop :=
  ∃ outs : List Output, t.outputs = r.outputs ++ outs ∧ ∀ o ∈ outs, o.events = []

theorem Quiet.trans {r t u : State} (h : Quiet r t) (h' : Quiet t u) : Quiet r u := by
  obtain ⟨outs, ht, hquiet⟩ := h
  obtain ⟨outs', hu, hquiet'⟩ := h'
  refine ⟨outs ++ outs', by rw [hu, ht, List.append_assoc], fun o ho => ?_⟩
  rcases List.mem_append.1 ho with ho | ho
  · exact hquiet o ho
  · exact hquiet' o ho

theorem quiet_of_replicate {r t : State} {n res : Nat} (h : t.outputs = r.outputs ++ List.replicate n ⟨[], res⟩) :
    Quiet r t :=
  ⟨_, h, fun _ ho => by rw [List.eq_of_mem_replicate ho]⟩

/-- A byte whose arm emits nothing. -/
theorem quiet_feedStep {s u : State} {x : Byte} (h : feedByte x s = (u, [])) : Quiet s (feedStep x s) :=
  ⟨_, feedStep_outputs x s, by simp [h]⟩

/-- A start-of-message byte and up to five header bytes leave HEADER with those bytes stored, whatever was there. -/
theorem feedSeq_som_header {r : State} {bs : List Byte} (hlen : bs.length ≤ 5)
    (hb : ∀ x ∈ bs, x ≠ r.params.SOM ∧ x ≠ r.params.EOM ∧ x ≠ r.params.EOH) :
    ∃ t, feedSeq (r.params.SOM :: bs) r = t ∧ Quiet r t ∧ t.params = r.params ∧ t.state = .header ∧
      t.typeSeen = false ∧ t.hdr = bs ∧ t.hdrLen = bs.length := by
  obtain ⟨k, hk⟩ := feedSeq_header (r := feedStep r.params.SOM r) (bs := bs) (by rw [feedStep_som]; rfl)
    (by rw [feedStep_som]; simpa [cleared] using hlen) (by rw [feedStep_som]; exact hb)
  refine ⟨_, hk, (quiet_feedStep (feedByte_som r)).trans (quiet_of_replicate rfl), ?_⟩
  rw [feedStep_som]
  exact ⟨rfl, rfl, rfl, rfl, Nat.zero_add _⟩

/-- The end-of-header byte after a header that is parsed. -/
theorem feedStep_endOfHeader {s : State} {lo hi sr : Byte} (hP : paramsLegal s.params = true) (hs : s.state = .header)
    (h1 : 1 ≤ s.hdrLen) (h5 : s.hdrLen ≤ 5) (hf : headerFields s.params s.hdr = some (lo, hi, sr)) :
    feedStep s.params.EOH s = respond [] 2 { s with
      state := .active, destLow := lo, destHigh := hi, src := sr, body := [], bufferWrites := s.bufferWrites + 1 } := by
  obtain ⟨-, hsom, heom, -⟩ := markers_of_legal hP
  rw [feedStep, feedByte_endOfHeader hsom heom hs, parseHeader_parsed h1 h5 hf]
  rfl

/-- `t` has been reached from `r` without an event, and is in ACTIVE with the destination and the source of `m`. -/
structure Receiving (m r t : State) : Prop where
  params : t.params = m.params
  state : t.state = .active
  destLow : t.destLow = m.destLow
  destHigh : t.destHigh = m.destHigh
  src : t.src = m.src
  quiet : Quiet r t

/-- The first part of a frame, up to the end-of-header byte, gives the fields back; the type is to come. -/
theorem receiving_of_header {m r : State} (hP : paramsLegal m.params = true) (hr : r.params = m.params)
    (hb : ∀ x ∈ headerBytes m, x ≠ m.params.SOM ∧ x ≠ m.params.EOM ∧ x ≠ m.params.EOH)
    (hsep : ¬ (m.destLow = m.destHigh ∧ m.src = m.params.SEP)) :
    ∃ t, feedSeq (m.params.SOM :: headerBytes m ++ [m.params.EOH]) r = t ∧ Receiving m r t ∧ t.typeSeen = false ∧
      t.body = [] := by
  obtain ⟨h1, h4⟩ := headerBytes_length m
  have hf := headerFields_headerBytes hsep
  rw [← hr] at hP hb hf ⊢
  obtain ⟨t, ht, hquiet, hparams, hstate, hseen, hhdr, hcount⟩ := feedSeq_som_header (r := r) (by omega) hb
  have harm := feedStep_endOfHeader (s := t) (by rwa [hparams]) hstate (by omega) (by omega) (by rwa [hparams, hhdr])
  rw [feedSeq_append, ht, ← hparams, feedSeq, harm]
  refine ⟨_, rfl, ⟨hparams.trans hr, rfl, rfl, rfl, rfl, hquiet.trans ?_⟩, hseen, rfl⟩
  exact quiet_of_replicate (n := 1) rfl

/-- The second part of a frame: the type and then the body bytes, as far as they fit. -/
theorem receiving_of_type_body {m r t : State} {ty : Byte} {bs : List Byte} (ht : Receiving m r t)
    (hseen : t.typeSeen = false) (hbody : t.body = []) (hlen : bs.length ≤ m.params.C - 1)
    (hb : ∀ x ∈ ty :: bs, x ≠ m.params.SOM ∧ x ≠ m.params.EOM) :
    ∃ u, feedSeq (ty :: bs) t = u ∧ Receiving m r u ∧ u.msgType = ty ∧ u.body = bs := by
  obtain ⟨hparams, hstate, hlo, hhi, hsrc, hquiet⟩ := ht
  rw [← hparams] at hlen hb
  obtain ⟨hsom, heom⟩ := hb ty (by simp)
  have harm := feedByte_type hsom heom hstate hseen
  obtain ⟨k, hk⟩ := feedSeq_body (r := feedStep ty t) (bs := bs) (by rw [feedStep, harm]; exact hstate)
    (by rw [feedStep, harm]; rfl) (by rw [feedStep, harm]; simpa [State.bodyLen, hbody] using hlen)
    (by rw [feedStep, harm]; exact fun x hx => hb x (by simp [hx]))
  refine ⟨_, hk, ?_⟩
  have hq := hquiet.trans (quiet_feedStep harm)
  rw [feedStep, harm] at hq ⊢
  exact ⟨⟨hparams, hstate, hlo, hhi, hsrc, hq.trans (quiet_of_replicate rfl)⟩, rfl, by simp [hbody]⟩

/-- The last byte of a frame whose checksum is right. -/
theorem feedStep_validEnd {s : State} {b : List Byte} (hP : paramsLegal s.params = true) (hs : s.state = .active)
    (hb : s.body = b ++ [crc8 ([s.destLow, s.destHigh, s.src, s.msgType] ++ b)]) :
    feedStep s.params.EOM s = respond [] 3 { s with
      body := b, state := .ready, isNew := true, bufferWrites := s.bufferWrites + 1 } := by
  obtain ⟨hmark, -⟩ := markers_of_legal hP
  rw [feedStep, feedByte_endOfFrame hmark hs, feedEomActive_concat hb, if_pos rfl]
  rfl

/-- Settles O43: the three parts of the frame one after the other. -/
theorem roundTrip : Obligations.RoundTrip := by
  intro s r P m rangeBytes srcBytes hP hr hmarks heoh hsep hlen t
  have hmem {x : Byte} : x ∈ [s.destLow] ++ rangeBytes ++ srcBytes ++ [s.msgType] ++ s.body ++ [crc8Msg m] ↔
      x ∈ [s.destLow] ++ rangeBytes ++ srcBytes ∨ x ∈ m.msgType :: (m.body ++ [crc8Msg m]) := by
    rw [← List.mem_append]
    simp [m]
  have hheader : ∀ x ∈ headerBytes m, x ≠ P.SOM ∧ x ≠ P.EOM ∧ x ≠ P.EOH := by
    intro x hx
    rcases mem_headerBytes hx with rfl | hfield
    · obtain ⟨-, -, -, hsom, heom, hsepeoh⟩ := markers_of_legal hP
      exact ⟨hsom, heom, hsepeoh⟩
    · obtain ⟨hsom, heom⟩ := hmarks x (hmem.2 (.inl hfield))
      exact ⟨hsom, heom, heoh x hfield⟩
  have hfits : (m.body ++ [crc8Msg m]).length ≤ m.params.C - 1 := by
    have hC := capacity_of_legal hP
    change s.body.length ≤ s.params.C - 2 at hlen
    change 2 ≤ s.params.C at hC
    simp only [m, List.length_append, List.length_singleton]
    omega
  obtain ⟨t₁, h₁, hrec₁, hseen, hempty⟩ := receiving_of_header (m := m) hP hr hheader hsep
  obtain ⟨t₂, h₂, hrec₂, htype, hbody⟩ :=
    receiving_of_type_body hrec₁ hseen hempty hfits fun x hx => hmarks x (hmem.2 (.inr hx))
  obtain ⟨hparams, hstate, hlo, hhi, hsrc, hquiet⟩ := hrec₂
  have hlast : t = feedStep t₂.params.EOM t₂ := by
    change feedSeq (compose m) r = _
    rw [compose_eq_headerBytes, feedSeq_append, feedSeq_append, h₁, h₂, hparams]
    rfl
  rw [hlast, feedStep_validEnd (b := m.body) (by rwa [hparams]) hstate (by rw [hbody, hlo, hhi, hsrc, htype]; rfl)]
  exact ⟨rfl, hlo, hhi, hsrc, htype, rfl, rfl, hquiet.trans (quiet_of_replicate (n := 1) rfl)⟩

end Sys2Proof.Machine
end
